-- ==== Sys2Proof/Word.lean ====
section
/-! DEFINITION. The word types of BPCE (00_scope.md R8, R10): every value is an unsigned bit field of a
stated width. -/

namespace Sys2Proof

/-- A host data word, `W_BUS` = 32 bits (R8). -/
abbrev Word := BitVec 32

/-- A byte, `W_BYTE` = 8 bits (R8). -/
abbrev Byte := BitVec 8

/-- A symbol, `W_SYM` = 5 bits: an integer in [0,31] (R8). -/
abbrev Sym := BitVec 5

/-- A polymod value, `W_PM` = 40 bits (R8). -/
abbrev PmWord := BitVec 40

/-- A register index of the host port, `W_IDX` = 4 bits (R8, R34). -/
abbrev RegIdx := BitVec 4

end Sys2Proof
end

