-- ==== Sys2Proof/Syntax.lean ====
section
/-! DEFINITION. The eleven commands of BPCE (30_encoding.md R72), one constructor per row of the opcode map. -/

namespace Sys2Proof

/-- A command, with the operand byte of those that read one (R71). A no-operand command carries nothing:
its `OPND` is not read. A symbol operand is carried as the whole byte `OPND`, because a byte above 31 has an
effect of its own (`OPERAND_RANGE`, R170). -/
inductive Instr where
  /-- `NOP` (R160). -/
  | nop
  /-- `SOFT_RESET` (R161). -/
  | softReset
  /-- `BP_START_PACK` (R102). -/
  | bpStartPack
  /-- `BP_START_UNPACK` (R103). -/
  | bpStartUnpack
  /-- `BP_PACK_BYTE b` (R104), a byte operand. -/
  | bpPackByte (opnd : Byte)
  /-- `BP_UNPACK_SYM s` (R105), a symbol operand. -/
  | bpUnpackSym (opnd : Byte)
  /-- `BP_FLUSH` (R107, R108). -/
  | bpFlush
  /-- `PM_INIT` (R132). -/
  | pmInit
  /-- `PM_STEP d` (R133), a symbol operand. -/
  | pmStep (opnd : Byte)
  /-- `PM_STEP_CHAR c` (R134), a byte operand. -/
  | pmStepChar (opnd : Byte)
  /-- `PM_FINAL` (R135). -/
  | pmFinal
  deriving DecidableEq, Repr

namespace Instr

/-- The commands of the BitPacker (the unit column of R72). -/
def isBitPacker : Instr → Bool
  | .bpStartPack | .bpStartUnpack | .bpPackByte _ | .bpUnpackSym _ | .bpFlush => true
  | .nop | .softReset | .pmInit | .pmStep _ | .pmStepChar _ | .pmFinal => false

/-- The commands of the ChecksumEngine (the unit column of R72). -/
def isChecksum : Instr → Bool
  | .pmInit | .pmStep _ | .pmStepChar _ | .pmFinal => true
  | .nop | .softReset | .bpStartPack | .bpStartUnpack | .bpPackByte _ | .bpUnpackSym _ | .bpFlush => false

end Instr

end Sys2Proof
end

