-- ==== Sys2Proof/WellFormed.lean ====
section
/-! DEFINITION. Which commands an assembler accepts (30_encoding.md R75): a symbol operand is at most 31.
A command that is not well formed still has its effect on the block (R71: `OPERAND_RANGE`). -/

namespace Sys2Proof

/-- A byte an assembler can write as a symbol operand: a number up to 31 (R75). -/
def isSymbolOperand (opnd : Byte) : Bool := opnd.toNat ≤ 31

/-- The command can be written in assembler (R75). -/
def Instr.wellFormed : Instr → Bool
  | .bpUnpackSym opnd => isSymbolOperand opnd
  | .pmStep opnd => isSymbolOperand opnd
  | .nop | .softReset | .bpStartPack | .bpStartUnpack | .bpPackByte _ | .bpFlush
  | .pmInit | .pmStepChar _ | .pmFinal => true

end Sys2Proof
end

