-- ==== Sys2Proof/Decode.lean ====
section
/-! DEFINITION. Decoding of the 32-bit command word, total on every word, and the encoder
(30_encoding.md R70 to R74). -/

namespace Sys2Proof

/-- `OPC`, bits [15:8] of a command word (R70). -/
def opcField (w : Word) : Byte := w.extractLsb' 8 8

/-- `OPND`, bits [7:0] of a command word (R70). -/
def opndField (w : Word) : Byte := w.extractLsb' 0 8

/-- Why a word is no command: its opcode is one of the 245 illegal ones (R73). -/
inductive DecodeError where
  | illegalOpcode (opc : Byte)
  deriving DecidableEq, Repr

/-- The command of a word: a lookup of `OPC` alone (R72). `RSV` is not read, and `OPND` only by the commands
that have an operand (R71). -/
def decode (w : Word) : Except DecodeError Instr :=
  match (opcField w).toNat with
  | 0x00 => .ok .nop
  | 0x01 => .ok .softReset
  | 0x10 => .ok .bpStartPack
  | 0x11 => .ok .bpStartUnpack
  | 0x12 => .ok (.bpPackByte (opndField w))
  | 0x13 => .ok (.bpUnpackSym (opndField w))
  | 0x14 => .ok .bpFlush
  | 0x20 => .ok .pmInit
  | 0x21 => .ok (.pmStep (opndField w))
  | 0x22 => .ok (.pmStepChar (opndField w))
  | 0x23 => .ok .pmFinal
  | _ => .error (.illegalOpcode (opcField w))

/-- `OPC` of a command (R72). -/
def Instr.opc : Instr → Byte
  | .nop => 0x00#8
  | .softReset => 0x01#8
  | .bpStartPack => 0x10#8
  | .bpStartUnpack => 0x11#8
  | .bpPackByte _ => 0x12#8
  | .bpUnpackSym _ => 0x13#8
  | .bpFlush => 0x14#8
  | .pmInit => 0x20#8
  | .pmStep _ => 0x21#8
  | .pmStepChar _ => 0x22#8
  | .pmFinal => 0x23#8

/-- `OPND` of a command as an assembler writes it: 0 for a no-operand command (R75). -/
def Instr.opnd : Instr → Byte
  | .bpPackByte b => b
  | .bpUnpackSym b => b
  | .pmStep b => b
  | .pmStepChar b => b
  | .nop | .softReset | .bpStartPack | .bpStartUnpack | .bpFlush | .pmInit | .pmFinal => 0x00#8

/-- The word of a command, `(OPC << 8) | operand` with `RSV = 0` (R75). -/
def encode (i : Instr) : Word := (i.opc ++ i.opnd).setWidth 32

/-- The command read from a word of the opcode table: a command is one 32-bit word, bit 0 its least significant
bit (R10, R70), and bits at or above `nbits` are 0. -/
def decodeTableWord (nbits w : Nat) : Option Instr :=
  (decode (BitVec.ofNat 32 (w % 2 ^ nbits))).toOption

end Sys2Proof
end

