-- ==== Sys2Proof/Machine/Operands.lean ====
section
/-! DEFINITION. The operand forms of the commands (30_encoding.md R71). No operand is sign-extended, scaled or
shifted. -/

namespace Sys2Proof.Machine

/-- A byte operand: all 8 bits of `OPND`, every value legal (R71). -/
def byteOperand (opnd : Byte) : Byte := opnd

/-- A symbol operand: `OPND[4:0]` when `OPND[7:5] = 0b000`, otherwise none (R71, `OPERAND_RANGE`). -/
def symbolOperand (opnd : Byte) : Option Sym :=
  if opnd.extractLsb' 5 3 = 0#3 then some (opnd.extractLsb' 0 5) else none

/-- The symbol of a prefix character: the byte operand masked to its low 5 bits (R71, R134). -/
def charSymbol (opnd : Byte) : Sym := opnd.extractLsb' 0 5

end Sys2Proof.Machine
end

