-- ==== Sys2Proof/Config.lean ====
section
/-! DEFINITION. What the spec leaves to the platform (20_memory.md R58) and the free values
(93_implementation_defined.md U1, U5). The constants the spec fixes stand beside their use in Machine/Checksum.lean. -/

namespace Sys2Proof.Config

/-- `BPCE_BASE` (R58, U7): for block number `block` of a platform and an address of the host, the register index
of that block's port the address names, if it names one. OPEN in the spec (D4), so it has no body here.
DESIGN CHOICE, safe (log entry 9). -/
opaque bpceBase (block address : Nat) : Option RegIdx

/-- The `n`-th free value: what a state element holds after power-up and before the first reset (R191, U1, U5).
It has no body: no value of it can be proved, only that equal `n` give equal values. DESIGN CHOICE (log entry 5): safe
for one block in one run, unsafe for a comparison of blocks or runs. -/
opaque freeValue (n : Nat) : PmWord

end Sys2Proof.Config
end

