-- ==== Sys2Proof/Machine/State.lean ====
section
/-! DEFINITION. The state of BPCE (10_state.md R20 to R28) with its host port, the reasons a step can stop,
and the state after reset (70_reset_and_hazards.md R190). -/

namespace Sys2Proof.Machine

/-- `BP_MODE` (R21). The value 3 is never held (R179), and this type excludes it. -/
inductive BpMode where
  /-- 0: no stream is open. -/
  | idle
  /-- 1: bytes in, symbols out. -/
  | pack
  /-- 2: symbols in, bytes out. -/
  | unpack
  deriving DecidableEq, Repr

/-- `ERR_CODE` (R28, R170). The codes 4 to 7 are never produced, and this type excludes them. -/
inductive ErrCode where
  /-- 0: no error. -/
  | none
  /-- 1: `OPC` is not in the opcode map. -/
  | illegalOpcode
  /-- 2: a push in a direction other than the open stream's. -/
  | modeConflict
  /-- 3: a symbol operand with `OPND[7:5] != 0`. -/
  | operandRange
  deriving DecidableEq, Repr

/-- What the world outside does to the block, one at a time (R12, R50, R190, R184). -/
inductive Event where
  /-- `HostWrite(idx, v)` (R12). -/
  | write (idx : RegIdx) (v : Word)
  /-- `HostRead(idx)` (R12). -/
  | read (idx : RegIdx)
  /-- The hardware reset input is asserted (R190). -/
  | resetInput
  /-- Power is lost and returns (R184, U5). DESIGN CHOICE (log entry 5): safe for one block in one run,
  unsafe for a comparison of blocks or runs. -/
  | powerLoss
  deriving DecidableEq, Repr

/-- The state elements of the block (R21 to R28), and around them the port: the accesses the host has issued
and the words it has read. -/
structure State where
  /-- `BP_MODE`, 2 bits (R21). -/
  bpMode : BpMode
  /-- `BP_ACC`, the live bits, right-aligned (R22). -/
  bpAcc : BitVec 7
  /-- `BP_CNT`, the number of live bits (R23). -/
  bpCnt : BitVec 3
  /-- `BP_OUT0`, the first emitted value (R24). -/
  bpOut0 : Byte
  /-- `BP_OUT1`, the second emitted value (R24). -/
  bpOut1 : Byte
  /-- `BP_OCNT`, 2 bits, how many lanes are valid; 3 is never held (R24, R179). -/
  bpOcnt : Fin 3
  /-- `PM_C`, the polymod accumulator (R25). -/
  pmC : PmWord
  /-- `PM_RES`, the polymod result (R26). -/
  pmRes : PmWord
  /-- `PM_RDY` (R27). -/
  pmRdy : Bool
  /-- `ERR`, the sticky error flag (R28). -/
  err : Bool
  /-- `ERR_CODE` (R28). -/
  errCode : ErrCode
  /-- A reset has happened since power-up, so accesses have a specified result (R191). DEDUCED, safe
  (log entry 4). -/
  ready : Bool
  /-- The events not yet performed, oldest first: the order in which the host issues its accesses (R55).
  The model's own field: DESIGN CHOICE, safe (log entry 1). -/
  pending : List Event
  /-- The words the port has returned to the host's reads, oldest first (R35). The model's own field:
  DESIGN CHOICE, safe (log entry 2). -/
  replies : List Word
  /-- How many free values have been taken. The model's own field. That it starts at 0 in every block, so that
  blocks with equal counts take equal values, is DESIGN CHOICE, unsafe for a comparison of blocks or runs (log entry 5). -/
  freeCount : Nat
  deriving DecidableEq, Repr

/-- The block never stops with a fault: its errors are sticky state (R171, R175), and an access that the spec
gives no result is refused (`Refusal`). So there is no reason of this kind; no step answers `fault`, and that is
safe, since no behaviour of the block is cut off here. -/
inductive Fault where
  deriving DecidableEq, Repr

/-- Why a step has no result. -/
inductive Refusal where
  /-- Raised by an arm of `exec` for an instruction that has no meaning yet (none in this model). Safe. -/
  | notModelled (mnemonic : String)
  /-- Raised by the port for a host access before the first reset after power-up, which has no specified
  result (R191, U2). DEDUCED, safe (log entry 4): nothing can be proved of such a run. -/
  | accessBeforeReset
  /-- Raised by a command that reads the live bits (`BP_PACK_BYTE`, `BP_UNPACK_SYM`, `BP_FLUSH` in pack mode)
  in a state that R179 calls unreachable, where the behaviour is not specified (U3). DEDUCED, safe
  (log entry 6): no run from a reset reaches such a state. -/
  | unreachableState
  deriving DecidableEq, Repr

namespace State

/-- The machine after reset (R190, with the values of R21 to R28). No access is pending and no word has been
read: the port's own fields are empty (log entries 1, 2, 5). -/
def reset : State where
  bpMode := .idle
  bpAcc := 0#7
  bpCnt := 0#3
  bpOut0 := 0#8
  bpOut1 := 0#8
  bpOcnt := 0
  pmC := 1#40
  pmRes := 0#40
  pmRdy := false
  err := false
  errCode := .none
  ready := true
  pending := []
  replies := []
  freeCount := 0

end State

end Sys2Proof.Machine
end

