-- ==== Sys2Proof/Machine/Ops.lean ====
section
/-! DEFINITION. The named operations over the state: the encodings of the small types, raising an error, the
error-state gate, the hardware reset, power-up, and the BitPacker's live bits and output lanes. -/

namespace Sys2Proof.Machine

/-- What a step or a command answers. -/
abbrev Result := Host.Outcome State Fault Refusal

/-- `BP_MODE` as the 2-bit field the host reads (R21, R37). -/
def BpMode.toBits : BpMode → BitVec 2
  | .idle => 0#2
  | .pack => 1#2
  | .unpack => 2#2

/-- `ERR_CODE` as the 3-bit field the host reads (R37, R170). -/
def ErrCode.toBits : ErrCode → BitVec 3
  | .none => 0#3
  | .illegalOpcode => 1#3
  | .modeConflict => 2#3
  | .operandRange => 3#3

/-- `raise Error(code)` (R171): sets `ERR` and `ERR_CODE` and changes nothing else. -/
def raiseError (code : ErrCode) (s : State) : Result :=
  .next { s with err := true, errCode := code }

/-- The error-state gate (R172): while `ERR = 1` the command is ignored. -/
def unlessErr (s : State) (k : Result) : Result :=
  if s.err then .next s else k

/-- A reset (R190): every state element takes its reset value. What the host has issued and what it has read
are outside the block and stay: DESIGN CHOICE, safe (log entry 10). -/
def resetElements (s : State) : State :=
  { State.reset with pending := s.pending, replies := s.replies, freeCount := s.freeCount }

/-- A free `BP_MODE`: any of the values the type has. -/
def BpMode.free (v : PmWord) : BpMode :=
  match (v.setWidth 2).toNat with
  | 1 => .pack
  | 2 => .unpack
  | _ => .idle

/-- A free `ERR_CODE`: any of the values the type has. -/
def ErrCode.free (v : PmWord) : ErrCode :=
  match (v.setWidth 2).toNat with
  | 1 => .illegalOpcode
  | 2 => .modeConflict
  | 3 => .operandRange
  | _ => .none

/-- Power is lost and returns (R184, R191, U1, U5): every state element holds a free value, and no host access
has a specified result until a reset. U5 says any value; which free values these are is chosen by `freeCount`, which
starts at 0 in every block, so two blocks, or two runs, with equal `freeCount` take equal element values.
DESIGN CHOICE (log entry 5): safe for one block in one run, unsafe for a comparison of blocks or runs. -/
def powerUp (s : State) : State :=
  let v := fun k => Config.freeValue (s.freeCount + k)
  { s with
    bpMode := BpMode.free (v 0)
    bpAcc := (v 1).setWidth 7
    bpCnt := (v 2).setWidth 3
    bpOut0 := (v 3).setWidth 8
    bpOut1 := (v 4).setWidth 8
    bpOcnt := Fin.ofNat 3 (v 5).toNat
    pmC := v 6
    pmRes := v 7
    pmRdy := (v 8).getLsbD 0
    err := (v 9).getLsbD 0
    errCode := ErrCode.free (v 10)
    ready := false
    freeCount := s.freeCount + 11 }

/-- The live bits have the form the spec specifies behaviour for: not one of the unreachable states of R179
(`BP_CNT > 4` in pack mode, `BP_ACC >= 2^BP_CNT`). -/
abbrev State.liveOk (s : State) : Prop :=
  s.bpAcc.toNat < 2 ^ s.bpCnt.toNat ∧ (s.bpMode = .pack → s.bpCnt.toNat ≤ 4)

/-- A command that reads the live bits has no specified behaviour in an unreachable state (R179, U3). -/
def withLiveBits (s : State) (k : Result) : Result :=
  if s.liveOk then k else .refused .unreachableState

/-- Sets the live bits: `BP_CNT <- k`, `BP_ACC <- t & mask(k)` (R100). -/
def State.keepLive (s : State) (t : BitVec 12) (k : Nat) : State :=
  { s with bpAcc := (t &&& BitVec.ofNat 12 (2 ^ k - 1)).setWidth 7, bpCnt := BitVec.ofNat 3 k }

/-- Sets the output lanes and their count (R24). -/
def State.emit (s : State) (out0 out1 : Byte) (count : Fin 3) : State :=
  { s with bpOut0 := out0, bpOut1 := out1, bpOcnt := count }

/-- Opens a stream, or closes one (`mode` IDLE): the mode is set and no live bit is left (R102, R103, R107). -/
def State.openStream (s : State) (mode : BpMode) : State :=
  { s with bpMode := mode, bpAcc := 0#7, bpCnt := 0#3 }

/-- The values the most recent BitPacker command emitted, in stream order (R24): the `BP_OCNT` valid lanes. -/
def State.emitted (s : State) : List Byte :=
  [s.bpOut0, s.bpOut1].take s.bpOcnt.val

end Sys2Proof.Machine
end

