-- ==== Sys2Proof/Machine/BitPacker.lean ====
section
/-! DEFINITION. The BitPacker commands (40_bitpacker.md R100 to R108). -/

namespace Sys2Proof.Machine

/-- The transient word `t = (BP_ACC << w) | v` of a push, at most 12 bits (R100, R101). -/
def pushWord (acc : BitVec 7) (w : Nat) (v : BitVec 12) : BitVec 12 :=
  (acc.setWidth 12 <<< w) ||| v

/-- The push of a byte in pack mode (R104): two symbols when at least 10 bits are there, else one. -/
def packPush (b : Byte) (s : State) : State :=
  let t := pushWord s.bpAcc 8 (b.setWidth 12)
  let n := s.bpCnt.toNat + 8
  if 10 ≤ n then
    (s.emit ((t.extractLsb' (n - 5) 5).setWidth 8) ((t.extractLsb' (n - 10) 5).setWidth 8) 2).keepLive t (n - 10)
  else
    (s.emit ((t.extractLsb' (n - 5) 5).setWidth 8) 0#8 1).keepLive t (n - 5)

/-- The push of a symbol in unpack mode (R105): a byte when at least 8 bits are there, else nothing. -/
def unpackPush (v : Sym) (s : State) : State :=
  let t := pushWord s.bpAcc 5 (v.setWidth 12)
  let n := s.bpCnt.toNat + 5
  if 8 ≤ n then
    (s.emit (t.extractLsb' (n - 8) 8) 0#8 1).keepLive t (n - 8)
  else
    (s.emit 0#8 0#8 0).keepLive t n

/-- The last symbol of a pack stream: the live bits, padded with trailing zero bits to 5 bits (R107). -/
def paddedSymbol (s : State) : Byte :=
  ((s.bpAcc.setWidth 12 <<< (5 - s.bpCnt.toNat)) &&& 0x1F#12).setWidth 8

/-- `BP_START_PACK` (R102). -/
def execBpStartPack (s : State) : Result :=
  unlessErr s (.next ((s.openStream .pack).emit 0#8 0#8 0))

/-- `BP_START_UNPACK` (R103). -/
def execBpStartUnpack (s : State) : Result :=
  unlessErr s (.next ((s.openStream .unpack).emit 0#8 0#8 0))

/-- `BP_PACK_BYTE b` (R104): the mode check, then the push. -/
def execBpPackByte (opnd : Byte) (s : State) : Result :=
  unlessErr s <|
    if s.bpMode ≠ .pack then raiseError .modeConflict s
    else withLiveBits s (.next (packPush (byteOperand opnd) s))

/-- `BP_UNPACK_SYM s` (R105): the mode check, then the operand check (R173), then the push. -/
def execBpUnpackSym (opnd : Byte) (s : State) : Result :=
  unlessErr s <|
    if s.bpMode ≠ .unpack then raiseError .modeConflict s
    else match symbolOperand opnd with
      | none => raiseError .operandRange s
      | some v => withLiveBits s (.next (unpackPush v s))

/-- `BP_FLUSH` (R107, R108): in pack mode with live bits the padded symbol is emitted, otherwise nothing; the
BitPacker returns to IDLE. -/
def execBpFlush (s : State) : Result :=
  unlessErr s <|
    if s.bpMode = .pack then
      withLiveBits s <|
        if 0 < s.bpCnt.toNat then .next ((s.openStream .idle).emit (paddedSymbol s) 0#8 1)
        else .next ((s.openStream .idle).emit 0#8 0#8 0)
    else .next ((s.openStream .idle).emit 0#8 0#8 0)

end Sys2Proof.Machine
end

