-- ==== Sys2Proof/Machine/Checksum.lean ====
section
/-! DEFINITION. The ChecksumEngine commands (41_checksum_engine.md R130 to R135). -/

namespace Sys2Proof.Machine

/-- `PM_MASK35`, the low 35 bits (R8). -/
def pmMask35 : PmWord := 0x07FFFFFFFF#40

/-- `PM_INIT_VALUE` (R8). -/
def pmInitValue : PmWord := 1#40

/-- `PM_FINAL_XOR` (R8). -/
def pmFinalXor : PmWord := 1#40

/-- `GEN[i]`, the generator that bit `i` of `c0` selects (R131).
PRESUMED, unsafe (log entry 3): the spec marks these five values as general knowledge, not in its source. -/
def gen : Fin 5 → PmWord
  | 0 => 0x98F2BC8E61#40
  | 1 => 0x79B76D99E2#40
  | 2 => 0xF33E5FB3C4#40
  | 3 => 0xAE2EABE2A8#40
  | 4 => 0x1E4F43E470#40

/-- `pm_step(c, d)` (R130): shift in `d` under the 35-bit mask, then XOR the generators that the top 5 bits of
`c` select. -/
def pmStep (c : PmWord) (d : Sym) : PmWord :=
  let c0 : BitVec 5 := c.extractLsb' 35 5
  let r : PmWord := ((c &&& pmMask35) <<< 5) ^^^ d.setWidth 40
  [(0 : Fin 5), 1, 2, 3, 4].foldl (fun r i => if c0.getLsbD i.val then r ^^^ gen i else r) r

/-- One step of the accumulator with the value `d`: what `PM_STEP` and `PM_STEP_CHAR` share (R133, R134). -/
def State.pmAdvance (s : State) (d : Sym) : State :=
  { s with pmC := pmStep s.pmC d, pmRdy := false }

/-- `PM_INIT` (R132). -/
def execPmInit (s : State) : Result :=
  unlessErr s (.next { s with pmC := pmInitValue, pmRdy := false })

/-- `PM_STEP d` (R133): the operand check, then the step. -/
def execPmStep (opnd : Byte) (s : State) : Result :=
  unlessErr s <|
    match symbolOperand opnd with
    | none => raiseError .operandRange s
    | some d => .next (s.pmAdvance d)

/-- `PM_STEP_CHAR c` (R134): the step with the low 5 bits of the byte. -/
def execPmStepChar (opnd : Byte) (s : State) : Result :=
  unlessErr s (.next (s.pmAdvance (charSymbol opnd)))

/-- `PM_FINAL` (R135): the closing XOR; `PM_C` stays. -/
def execPmFinal (s : State) : Result :=
  unlessErr s (.next { s with pmRes := s.pmC ^^^ pmFinalXor, pmRdy := true })

end Sys2Proof.Machine
end

