-- ==== Sys2Proof/Machine/Control.lean ====
section
/-! DEFINITION. The control commands (42_control.md R160, R161). -/

namespace Sys2Proof.Machine

/-- `NOP` (R160): no state changes, whether or not the error state ignores it. -/
def execNop (s : State) : Result := .next s

/-- `SOFT_RESET` (R161): every state element takes its reset value, in the error state too (R172). -/
def execSoftReset (s : State) : Result := .next (resetElements s)

end Sys2Proof.Machine
end

