-- ==== Sys2Proof/Machine/Dispatch.lean ====
section
/-! DEFINITION. The dispatch of a decoded command to its meaning (30_encoding.md R72). -/

namespace Sys2Proof.Machine

def exec (i : Instr) (s : State) : Host.Outcome State Fault Refusal :=
  match i with
  | .nop => Sys2Proof.Machine.execNop s
  | .softReset => Sys2Proof.Machine.execSoftReset s
  | .bpStartPack => Sys2Proof.Machine.execBpStartPack s
  | .bpStartUnpack => Sys2Proof.Machine.execBpStartUnpack s
  | .bpPackByte opnd => Sys2Proof.Machine.execBpPackByte opnd s
  | .bpUnpackSym opnd => Sys2Proof.Machine.execBpUnpackSym opnd s
  | .bpFlush => Sys2Proof.Machine.execBpFlush s
  | .pmInit => Sys2Proof.Machine.execPmInit s
  | .pmStep opnd => Sys2Proof.Machine.execPmStep opnd s
  | .pmStepChar opnd => Sys2Proof.Machine.execPmStepChar opnd s
  | .pmFinal => Sys2Proof.Machine.execPmFinal s

end Sys2Proof.Machine
end

