-- ==== Sys2Proof/Machine/Flags.lean ====
section
/-! DEFINITION. The derived flag and the derived symbols (10_state.md R29, R30), and the host registers that are
views of the state (R34 to R43). -/

namespace Sys2Proof.Machine

/-- `PM_ZERO = PM_RDY & (PM_RES == 0)` (R29). -/
def pmZero (s : State) : Bool := s.pmRdy && s.pmRes == 0#40

/-- `PM_SYM[i] = PM_RES[39-5*i : 35-5*i]` (R30). -/
def pmSym (s : State) (i : Fin 8) : Sym := s.pmRes.extractLsb' (35 - 5 * i.val) 5

/-- `STATUS`, index 0x1 (R37). -/
def statusReg (s : State) : Word :=
  (BitVec.ofBool (pmZero s) ++ BitVec.ofBool s.pmRdy ++ 0#1 ++ s.bpCnt ++ BitVec.ofNat 2 s.bpOcnt.val
    ++ s.bpMode.toBits ++ s.errCode.toBits ++ BitVec.ofBool s.err).setWidth 32

/-- `BP_OUT`, index 0x2 (R38). -/
def bpOutReg (s : State) : Word := (s.bpOut1 ++ s.bpOut0).setWidth 32

/-- `BP_ACCR`, index 0x3 (R39). -/
def bpAccReg (s : State) : Word := s.bpAcc.setWidth 32

/-- `PM_C_LO`, index 0x4 (R40). -/
def pmCLoReg (s : State) : Word := s.pmC.extractLsb' 0 32

/-- `PM_C_HI`, index 0x5 (R40). -/
def pmCHiReg (s : State) : Word := (s.pmC.extractLsb' 32 8).setWidth 32

/-- `PM_RES_LO`, index 0x6 (R41). -/
def pmResLoReg (s : State) : Word := s.pmRes.extractLsb' 0 32

/-- `PM_RES_HI`, index 0x7 (R41). -/
def pmResHiReg (s : State) : Word := (s.pmRes.extractLsb' 32 8).setWidth 32

/-- Four symbols in the four byte lanes of a register, the first in the least significant lane (R42). -/
def symLanes (a b c d : Sym) : Word :=
  (0#3 ++ d ++ 0#3 ++ c ++ 0#3 ++ b ++ 0#3 ++ a).cast rfl

/-- `PM_SYM_LO`, index 0x8 (R42). -/
def pmSymLoReg (s : State) : Word := symLanes (pmSym s 0) (pmSym s 1) (pmSym s 2) (pmSym s 3)

/-- `PM_SYM_HI`, index 0x9 (R42). -/
def pmSymHiReg (s : State) : Word := symLanes (pmSym s 4) (pmSym s 5) (pmSym s 6) (pmSym s 7)

/-- The word a host read of index `idx` returns (R34, R35): `CMD` and the reserved indices read 0 (R36, R43). -/
def hostRead (idx : RegIdx) (s : State) : Word :=
  match idx.toNat with
  | 0x0 => 0#32
  | 0x1 => statusReg s
  | 0x2 => bpOutReg s
  | 0x3 => bpAccReg s
  | 0x4 => pmCLoReg s
  | 0x5 => pmCHiReg s
  | 0x6 => pmResLoReg s
  | 0x7 => pmResHiReg s
  | 0x8 => pmSymLoReg s
  | 0x9 => pmSymHiReg s
  | _ => 0#32

end Sys2Proof.Machine
end

