-- ==== Sys2Proof/Machine/Port.lean ====
section
/-! DEFINITION. The host port (20_memory.md R50 to R60): executing a command word, host writes and reads, the
reset input, power loss, and the order in which they are performed. -/

namespace Sys2Proof.Machine

/-- `execute(w)` (R70): an illegal opcode raises `ILLEGAL_OPCODE`, and in the error state is ignored (R73, R172). -/
def executeWord (w : Word) (s : State) : Result :=
  match decode w with
  | .ok i => exec i s
  | .error _ => unlessErr s (raiseError .illegalOpcode s)

/-- `HostWrite(idx, v)`: a write to `CMD` executes one command, a write to another index is ignored (R35). -/
def hostWrite (idx : RegIdx) (v : Word) (s : State) : Result :=
  if idx = 0#4 then executeWord v s else .next s

/-- The write that is itself a reset: `SOFT_RESET` written to `CMD` (R190, R192). -/
def isSoftResetWrite (idx : RegIdx) (v : Word) : Bool := idx == 0#4 && opcField v == 0x01#8

/-- One event, performed whole (R55). Before the first reset a host access is refused (R191), but for the one
that is itself a reset (R192): DEDUCED, safe (log entry 4). -/
def performEvent (e : Event) (s : State) : Result :=
  match e with
  | .write idx v =>
    if s.ready || isSoftResetWrite idx v then hostWrite idx v s else .refused .accessBeforeReset
  | .read idx =>
    if s.ready then .next { s with replies := s.replies ++ [hostRead idx s] }
    else .refused .accessBeforeReset
  | .resetInput => .next (resetElements s)
  | .powerLoss => .next (powerUp s)

/-- The port performs the oldest event; with none the block holds its state (R50, R184):
DEDUCED, safe (log entry 7). -/
def portStep (s : State) : Result :=
  match s.pending with
  | [] => .next s
  | e :: rest => performEvent e { s with pending := rest }

end Sys2Proof.Machine
end

