-- ==== Sys2Proof/Machine/Step.lean ====
section
/-! DEFINITION. One step of the machine, and the placing of a command word where the next step takes it. -/

namespace Sys2Proof.Machine

/-- One step: one event of the port, performed whole (R50, R55). -/
def step (s : State) : Host.Outcome State Fault Refusal := portStep s

/-- The state in which the host has issued a write of the word `w` to `CMD` (the bits at or above `nbits` zero),
ahead of anything else, to a block that has been reset, so that the next step executes exactly that command (R70). -/
def State.withFetchWord (s : State) (nbits w : Nat) : State :=
  { s with ready := true, pending := .write 0#4 (BitVec.ofNat 32 (w % 2 ^ nbits)) :: s.pending }

end Sys2Proof.Machine
end

