-- ==== Sys2Proof/Machine/Pseudo.lean ====
section
/-! DEFINITION. The pseudo-commands of the assembler (30_encoding.md R76): each stands for a list of commands. -/

namespace Sys2Proof.Machine

/-- A pseudo-command (R76). -/
inductive Pseudo where
  /-- `PM_PAD8`. -/
  | pmPad8
  /-- `PM_SEP`. -/
  | pmSep
  /-- `PM_STR "s"`, with the codes of the characters. -/
  | pmStr (chars : List Byte)
  /-- `PM_SYMS s0, s1, ...`. -/
  | pmSyms (symbols : List Sym)
  /-- `BP_PACK_BYTES b0, b1, ...`. -/
  | bpPackBytes (bytes : List Byte)
  /-- `BP_UNPACK_SYMS s0, s1, ...`. -/
  | bpUnpackSyms (symbols : List Sym)
  deriving DecidableEq, Repr

/-- A symbol as the operand byte of a command: `OPND[7:5] = 0b000` (R71). -/
def symbolOpnd (v : Sym) : Byte := v.setWidth 8

/-- The commands a pseudo-command expands to, in order (R76). -/
def Pseudo.expand : Pseudo → List Instr
  | .pmPad8 => List.replicate 8 (.pmStep 0#8)
  | .pmSep => [.pmStep 0#8]
  | .pmStr chars => chars.map Instr.pmStepChar
  | .pmSyms symbols => symbols.map fun v => Instr.pmStep (symbolOpnd v)
  | .bpPackBytes bytes => bytes.map Instr.bpPackByte
  | .bpUnpackSyms symbols => symbols.map fun v => Instr.bpUnpackSym (symbolOpnd v)

end Sys2Proof.Machine
end

