-- ==== Sys2Proof/Machine/Assembler.lean ====
section
/-! DEFINITION. The assembler of 30_encoding.md R75 and R76: one line of text to the command words it stands for.
Lines are lists of characters. Blanks separate the parts of a line and mnemonics are matched as R72 spells them
(DESIGN CHOICE, safe, log entry 8, which also says how a number is written, what a quoted operand and a string may hold
and that an operand list is not empty). -/

namespace Sys2Proof.Machine

/-- Why a line is refused (R75). -/
inductive AsmError where
  /-- The mnemonic is none of R72 and R76. -/
  | unknownMnemonic
  /-- An operand on a command that has none. -/
  | unexpectedOperand
  /-- No operand where the command needs one, or text that is no operand of its kind. -/
  | badOperand
  /-- A number above 255 for a byte operand or above 31 for a symbol operand. -/
  | operandTooLarge
  deriving DecidableEq, Repr

/-- An operand as written: a number, or a quoted character (R75). -/
inductive AsmOperand where
  | number (n : Nat)
  | quoted (c : Char)
  deriving DecidableEq, Repr

/-- What a mnemonic takes after it (R75, R76). -/
inductive AsmShape where
  /-- No operand: the line stands for these commands. -/
  | fixed (commands : List Instr)
  /-- One byte operand. -/
  | byte (mk : Byte → Instr)
  /-- One symbol operand. -/
  | symbol (mk : Byte → Instr)
  /-- A list of byte operands. -/
  | byteList (mk : Byte → Instr)
  /-- A list of symbol operands. -/
  | symbolList (mk : Byte → Instr)
  /-- One string between double quotes. -/
  | text (mk : Byte → Instr)

/-- The mnemonics of R72 and R76 with what each takes. -/
def asmTable : List (List Char × AsmShape) :=
  [ (['N', 'O', 'P'], .fixed [.nop]),
    (['S', 'O', 'F', 'T', '_', 'R', 'E', 'S', 'E', 'T'], .fixed [.softReset]),
    (['B', 'P', '_', 'S', 'T', 'A', 'R', 'T', '_', 'P', 'A', 'C', 'K'], .fixed [.bpStartPack]),
    (['B', 'P', '_', 'S', 'T', 'A', 'R', 'T', '_', 'U', 'N', 'P', 'A', 'C', 'K'], .fixed [.bpStartUnpack]),
    (['B', 'P', '_', 'P', 'A', 'C', 'K', '_', 'B', 'Y', 'T', 'E'], .byte .bpPackByte),
    (['B', 'P', '_', 'U', 'N', 'P', 'A', 'C', 'K', '_', 'S', 'Y', 'M'], .symbol .bpUnpackSym),
    (['B', 'P', '_', 'F', 'L', 'U', 'S', 'H'], .fixed [.bpFlush]),
    (['P', 'M', '_', 'I', 'N', 'I', 'T'], .fixed [.pmInit]),
    (['P', 'M', '_', 'S', 'T', 'E', 'P'], .symbol .pmStep),
    (['P', 'M', '_', 'S', 'T', 'E', 'P', '_', 'C', 'H', 'A', 'R'], .byte .pmStepChar),
    (['P', 'M', '_', 'F', 'I', 'N', 'A', 'L'], .fixed [.pmFinal]),
    (['P', 'M', '_', 'P', 'A', 'D', '8'], .fixed Pseudo.pmPad8.expand),
    (['P', 'M', '_', 'S', 'E', 'P'], .fixed Pseudo.pmSep.expand),
    (['P', 'M', '_', 'S', 'T', 'R'], .text .pmStepChar),
    (['P', 'M', '_', 'S', 'Y', 'M', 'S'], .symbolList .pmStep),
    (['B', 'P', '_', 'P', 'A', 'C', 'K', '_', 'B', 'Y', 'T', 'E', 'S'], .byteList .bpPackByte),
    (['B', 'P', '_', 'U', 'N', 'P', 'A', 'C', 'K', '_', 'S', 'Y', 'M', 'S'], .symbolList .bpUnpackSym) ]

/-- What a mnemonic takes, if it is one. -/
def asmShape (name : List Char) : Option AsmShape :=
  (asmTable.find? fun row => row.1 == name).map Prod.snd

/-- A blank or a tab. -/
def isBlank (c : Char) : Bool := c.toNat == 32 || c.toNat == 9

/-- The text from its first character that is no blank. -/
def skipBlanks (cs : List Char) : List Char := cs.dropWhile isBlank

/-- Nothing is left on the line but blanks and a comment (R75). -/
def atLineEnd (cs : List Char) : Bool :=
  match skipBlanks cs with
  | [] => true
  | c :: _ => c == ';'

/-- The value of a hexadecimal digit. -/
def hexDigit (c : Char) : Option Nat :=
  let n := c.toNat
  if 48 ≤ n ∧ n ≤ 57 then some (n - 48)
  else if 65 ≤ n ∧ n ≤ 70 then some (n - 55)
  else if 97 ≤ n ∧ n ≤ 102 then some (n - 87)
  else none

/-- The value of a decimal digit. -/
def decDigit (c : Char) : Option Nat :=
  let n := c.toNat
  if 48 ≤ n ∧ n ≤ 57 then some (n - 48) else none

/-- Reads digits in a base, most significant first: the number so far, and the text after the last digit. -/
def readDigits (digit : Char → Option Nat) (base acc : Nat) : List Char → Nat × List Char
  | [] => (acc, [])
  | c :: rest =>
    match digit c with
    | some d => readDigits digit base (acc * base + d) rest
    | none => (acc, c :: rest)

/-- Reads one operand: `0x` and hexadecimal digits, decimal digits, or a quoted character (39 is the
quotation mark) (R75). That a number holds digits alone, with no `_` in it (R11 allows `_` in the spec's own literals,
R75 does not speak of it) and no sign, that leading zeros and both letter cases of hexadecimal digits are read, and that
any one ASCII character may stand between the quotation marks, is DESIGN CHOICE, safe (log entry 8). -/
def readOperand (cs : List Char) : Option (AsmOperand × List Char) :=
  match skipBlanks cs with
  | '0' :: 'x' :: d :: rest =>
    match hexDigit d with
    | some v => let (n, after) := readDigits hexDigit 16 v rest; some (.number n, after)
    | none => none
  | q :: rest =>
    if q.toNat == 39 then
      match rest with
      | c :: q' :: after => if q'.toNat == 39 then some (.quoted c, after) else none
      | _ => none
    else
      match decDigit q with
      | some v => let (n, after) := readDigits decDigit 10 v rest; some (.number n, after)
      | none => none
  | [] => none

/-- Reads operands separated by commas to the end of the line. `fuel` bounds their number. A list without an operand
is not read: DESIGN CHOICE, safe (log entry 8). -/
def readOperands : Nat → List Char → Option (List AsmOperand)
  | 0, _ => none
  | fuel + 1, cs =>
    match readOperand cs with
    | none => none
    | some (op, after) =>
      if atLineEnd after then some [op]
      else
        match skipBlanks after with
        | ',' :: rest => (readOperands fuel rest).map (op :: ·)
        | _ => none

/-- Reads a string between double quotes (34) that ends the line (R76). The string is whatever stands between the
first double quote and the next: a semicolon in it is a character and starts no comment, no double quote can stand in
it, there is no escape, and it may be empty. DESIGN CHOICE, safe (log entry 8). -/
def readText (cs : List Char) : Option (List Char) :=
  match skipBlanks cs with
  | q :: rest =>
    if q.toNat == 34 then
      match rest.dropWhile fun c => c.toNat != 34 with
      | _ :: after => if atLineEnd after then some (rest.takeWhile fun c => c.toNat != 34) else none
      | [] => none
    else none
  | [] => none

/-- The code of an ASCII character (R75). -/
def asciiCode (c : Char) : Except AsmError Byte :=
  if c.toNat ≤ 127 then .ok (BitVec.ofNat 8 c.toNat) else .error .badOperand

/-- A byte operand: a number up to 255, or a quoted ASCII character (R75). -/
def AsmOperand.asByte : AsmOperand → Except AsmError Byte
  | .number n => if n ≤ 255 then .ok (BitVec.ofNat 8 n) else .error .operandTooLarge
  | .quoted c => asciiCode c

/-- A symbol operand: a number up to 31 (R75). -/
def AsmOperand.asSymbol : AsmOperand → Except AsmError Byte
  | .number n => if n ≤ 31 then .ok (BitVec.ofNat 8 n) else .error .operandTooLarge
  | .quoted _ => .error .badOperand

/-- The commands of a mnemonic and the rest of its line. An empty operand list of `PM_SYMS`, `BP_PACK_BYTES` or
`BP_UNPACK_SYMS` is refused as `badOperand`, while the empty string of `PM_STR` stands for no command: DESIGN CHOICE,
safe (log entry 8). -/
def assembleShape (shape : AsmShape) (rest : List Char) : Except AsmError (List Instr) :=
  let operands := readOperands (rest.length + 1) rest
  match shape with
  | .fixed commands => if atLineEnd rest then .ok commands else .error .unexpectedOperand
  | .byte mk =>
    match operands with
    | some [op] => op.asByte.map fun b => [mk b]
    | _ => .error .badOperand
  | .symbol mk =>
    match operands with
    | some [op] => op.asSymbol.map fun b => [mk b]
    | _ => .error .badOperand
  | .byteList mk =>
    match operands with
    | some ops => (ops.mapM AsmOperand.asByte).map (List.map mk)
    | none => .error .badOperand
  | .symbolList mk =>
    match operands with
    | some ops => (ops.mapM AsmOperand.asSymbol).map (List.map mk)
    | none => .error .badOperand
  | .text mk =>
    match readText rest with
    | some chars => (chars.mapM asciiCode).map (List.map mk)
    | none => .error .badOperand

/-- The commands of one line (R75, R76); a line with nothing but a comment stands for none. -/
def assembleCommands (line : List Char) : Except AsmError (List Instr) :=
  if atLineEnd line then .ok []
  else
    let start := skipBlanks line
    let isEnd := fun c : Char => isBlank c || c == ';'
    match asmShape (start.takeWhile fun c => !isEnd c) with
    | some shape => assembleShape shape (start.dropWhile fun c => !isEnd c)
    | none => .error .unknownMnemonic

/-- The command words of one line (R75). -/
def assembleLine (line : List Char) : Except AsmError (List Word) :=
  (assembleCommands line).map (List.map encode)

/-- A hexadecimal digit as it is written, `n < 16`, with lower-case letters. -/
def hexChar (n : Nat) : Char := Char.ofNat (if n < 10 then 48 + n else 87 + n)

/-- A byte written as a hexadecimal number, `0x..` (R75). -/
def writeNumber (b : Byte) : List Char := ['0', 'x', hexChar (b.toNat / 16), hexChar (b.toNat % 16)]

/-- An operand list as it is written: the numbers, each after a blank, with commas between them (R76). -/
def writeOperands : List Byte → List Char
  | [] => []
  | [b] => ' ' :: writeNumber b
  | b :: rest => ' ' :: writeNumber b ++ ',' :: writeOperands rest

end Sys2Proof.Machine
end

