-- ==== Sys2Proof/Machine/Reference.lean ====
section
/-! DEFINITION. The functions the block is to compute on whole streams, as the spec quotes them from its source:
`pack5` and `unpack5` (40_bitpacker.md), `polymod` and `checksum` (41_checksum_engine.md). They are written over
streams of bits (00_scope.md R13), apart from the commands, so that the stream laws compare two different texts. -/

namespace Sys2Proof.Machine

/-- The bits of a byte, bit 7 first (R13). -/
def byteBits (b : Byte) : List Bool :=
  [b.getLsbD 7, b.getLsbD 6, b.getLsbD 5, b.getLsbD 4, b.getLsbD 3, b.getLsbD 2, b.getLsbD 1, b.getLsbD 0]

/-- The bits of a symbol, bit 4 first (R13). -/
def symBits (v : Sym) : List Bool :=
  [v.getLsbD 4, v.getLsbD 3, v.getLsbD 2, v.getLsbD 1, v.getLsbD 0]

/-- The symbol of five bits, the most significant first. -/
def symOfBits (a b c d e : Bool) : Sym :=
  BitVec.ofBool a ++ BitVec.ofBool b ++ BitVec.ofBool c ++ BitVec.ofBool d ++ BitVec.ofBool e

/-- The byte of eight bits, the most significant first. -/
def byteOfBits (a b c d e f g h : Bool) : Byte :=
  BitVec.ofBool a ++ BitVec.ofBool b ++ BitVec.ofBool c ++ BitVec.ofBool d
    ++ BitVec.ofBool e ++ BitVec.ofBool f ++ BitVec.ofBool g ++ BitVec.ofBool h

/-- The 5-bit groups of a bitstream; an incomplete final group is padded with trailing zero bits. -/
def symbolsOfBits : List Bool → List Sym
  | a :: b :: c :: d :: e :: rest => symOfBits a b c d e :: symbolsOfBits rest
  | [a, b, c, d] => [symOfBits a b c d false]
  | [a, b, c] => [symOfBits a b c false false]
  | [a, b] => [symOfBits a b false false false]
  | [a] => [symOfBits a false false false false]
  | [] => []

/-- The complete 8-bit groups of a bitstream; a final remainder of fewer than 8 bits is discarded. -/
def bytesOfBits : List Bool → List Byte
  | a :: b :: c :: d :: e :: f :: g :: h :: rest => byteOfBits a b c d e f g h :: bytesOfBits rest
  | _ => []

/-- `pack5` (the head of 40_bitpacker.md). -/
def pack5 (bytes : List Byte) : List Sym := symbolsOfBits (bytes.flatMap byteBits)

/-- `unpack5` (the head of 40_bitpacker.md). -/
def unpack5 (symbols : List Sym) : List Byte := bytesOfBits (symbols.flatMap symBits)

/-- `polymod` (R136): `c = 1`, one `pm_step` for each value, and the closing XOR with 1. -/
def polymod (values : List Sym) : PmWord := values.foldl pmStep 1#40 ^^^ 1#40

/-- Lowercasing of an ASCII code: an upper-case letter gains bit 5 (R141). The host's duty, not the block's.
DEDUCED, safe (log entry 11). -/
def asciiLower (c : Byte) : Byte :=
  if 0x41 ≤ c.toNat ∧ c.toNat ≤ 0x5A then c ||| 0x20#8 else c

/-- The eight 5-bit groups of a 40-bit result, the most significant first, "index 7 down to 0 in 5-bit shifts" (R30). -/
def eightSymbols (r : PmWord) : List Sym :=
  [7, 6, 5, 4, 3, 2, 1, 0].map fun k => ((r >>> (5 * k)) &&& 31#40).setWidth 5

/-- The values that enter `polymod` ahead of the payload: the lowercase prefix masked to 5 bits, and the separator. -/
def prefixSymbols (chars : List Byte) : List Sym :=
  chars.map (fun c => (asciiLower c).setWidth 5) ++ [0#5]

/-- `checksum(prefix, payload)` (the head of 41_checksum_engine.md). -/
def checksum (chars : List Byte) (payload : List Sym) : List Sym :=
  eightSymbols (polymod (prefixSymbols chars ++ payload ++ List.replicate 8 0#5))

end Sys2Proof.Machine
end

