-- ==== Sys2Proof/Machine/HostProc.lean ====
section
/-! DEFINITION. The host's procedures: sequences of commands, what the host collects after each, and the procedures
the stream laws name (40_bitpacker.md R106, R109; 41_checksum_engine.md R136, R137, R139). -/

namespace Sys2Proof.Machine

/-- The commands of a list, one after another; the first that answers no next state ends the run. -/
def runCommands : List Instr → State → Result
  | [], s => .next s
  | i :: rest, s =>
    match exec i s with
    | .next t => runCommands rest t
    | .fault f => .fault f
    | .refused r => .refused r

/-- The same run with the host collecting, after each command, the `BP_OCNT` valid lanes (R106, R109): the last
state and all values collected, or none when a command answers no next state. -/
def runCollect : List Instr → State → Option (State × List Byte)
  | [], s => some (s, [])
  | i :: rest, s =>
    match exec i s with
    | .next t =>
      match runCollect rest t with
      | some (u, values) => some (u, t.emitted ++ values)
      | none => none
    | .fault _ => none
    | .refused _ => none

/-- `BP_START_PACK`, one `BP_PACK_BYTE` per byte, `BP_FLUSH` (R106). -/
def packProc (bytes : List Byte) : List Instr :=
  [.bpStartPack] ++ (Pseudo.bpPackBytes bytes).expand ++ [.bpFlush]

/-- `BP_START_UNPACK`, one `BP_UNPACK_SYM` per symbol, `BP_FLUSH` (R109). -/
def unpackProc (symbols : List Sym) : List Instr :=
  [.bpStartUnpack] ++ (Pseudo.bpUnpackSyms symbols).expand ++ [.bpFlush]

/-- `PM_INIT`, one `PM_STEP` per value, `PM_FINAL` (R136). -/
def polymodProc (values : List Sym) : List Instr :=
  [.pmInit] ++ (Pseudo.pmSyms values).expand ++ [.pmFinal]

/-- The checksum sequence (R137). -/
def checksumProc (chars : List Byte) (payload : List Sym) : List Instr :=
  [.pmInit] ++ (Pseudo.pmStr chars).expand ++ Pseudo.pmSep.expand ++ (Pseudo.pmSyms payload).expand
    ++ Pseudo.pmPad8.expand ++ [.pmFinal]

/-- The validation sequence (R139). -/
def validateProc (chars : List Byte) (payload check : List Sym) : List Instr :=
  [.pmInit] ++ (Pseudo.pmStr chars).expand ++ Pseudo.pmSep.expand ++ (Pseudo.pmSyms payload).expand
    ++ (Pseudo.pmSyms check).expand ++ [.pmFinal]

/-- The accesses of a host that writes each command to `CMD` and then reads `BP_OUT` and `STATUS` (R106, R194). -/
def commandsWithReads (commands : List Instr) : List Event :=
  commands.flatMap fun i => [.write 0x0#4 (encode i), .read 0x2#4, .read 0x1#4]

/-- What such a host collects from the words it read: for each pair of a `BP_OUT` and a `STATUS` word, the
lanes that `STATUS[7:6]` says are valid (R37, R38). -/
def collectReplies : List Word → List Byte
  | out :: status :: rest =>
    [out.extractLsb' 0 8, out.extractLsb' 8 8].take (status.extractLsb' 6 2).toNat ++ collectReplies rest
  | _ => []

end Sys2Proof.Machine
end

