-- ==== Sys2Proof/Machine/Platform.lean ====
section
/-! DEFINITION. A platform with several blocks (60_exceptions.md R181, R182; 20_memory.md R58): each block has its own
state and its own port, at an address the platform chooses. -/

namespace Sys2Proof.Machine

/-- The blocks of a platform, each a device of its own (R182). DESIGN CHOICE, safe but for a comparison of two blocks
after a power loss (log entries 9 and 5). -/
abbrev Platform := List State

/-- What the host does at an address of its own address space. -/
inductive HostAccess where
  | write (v : Word)
  | read
  deriving DecidableEq, Repr

/-- The event that an access is at the port, once the platform has mapped the address to an index (R58). -/
def HostAccess.toEvent (a : HostAccess) (idx : RegIdx) : Event :=
  match a with
  | .write v => .write idx v
  | .read => .read idx

/-- The host issues an access at an address: every block whose port `BPCE_BASE` maps the address to takes it as
its newest event; `number` is the number of the first block of the list. That an address mapped to several blocks
reaches each of them, and that one mapped to no block changes nothing, is DESIGN CHOICE, unsafe (log entry 14): the
spec leaves the mapping to the platform (R58) and says of neither case what happens. -/
def Platform.issueFrom (number : Nat) (p : Platform) (address : Nat) (a : HostAccess) : Platform :=
  match p with
  | [] => []
  | s :: rest =>
    (match Config.bpceBase number address with
      | some idx => { s with pending := s.pending ++ [a.toEvent idx] }
      | none => s) :: Platform.issueFrom (number + 1) rest address a

/-- The host issues an access at an address of its own (R58, R181); for an address of several blocks or of none see
log entry 14. -/
def Platform.issue (p : Platform) (address : Nat) (a : HostAccess) : Platform :=
  Platform.issueFrom 0 p address a

/-- Block number `k` performs one step; the others do nothing (R182). For a number that no block has, nothing
happens: DESIGN CHOICE, safe (log entry 14). -/
def Platform.stepBlock (p : Platform) (k : Nat) : Host.Outcome Platform Fault Refusal :=
  match p[k]? with
  | none => .next p
  | some s =>
    match step s with
    | .next t => .next (p.set k t)
    | .fault f => .fault f
    | .refused r => .refused r

end Sys2Proof.Machine
end

