-- ==== Sys2Proof/Safety.lean ====
section
/-! DEFINITION. The terms the claims use: the invariant of the state elements, the reset values, which elements two
states share, the live bits as a bitstream, and the opcode map as a list. -/

namespace Sys2Proof.Machine

/-- The relations between the state elements that the spec states (R22, R23, R24, R27, R28 with R170). -/
abbrev State.elementsOk (s : State) : Prop :=
  s.bpAcc.toNat < 2 ^ s.bpCnt.toNat
  ∧ (s.bpMode = .idle → s.bpCnt = 0#3 ∧ s.bpAcc = 0#7)
  ∧ (s.bpMode = .pack → s.bpCnt.toNat ≤ 4)
  ∧ (s.bpOcnt = 0 → s.bpOut0 = 0#8)
  ∧ (s.bpOcnt ≠ 2 → s.bpOut1 = 0#8)
  ∧ (s.bpMode = .pack → s.bpOut0.toNat ≤ 31 ∧ s.bpOut1.toNat ≤ 31)
  ∧ (s.pmRdy = true → s.pmRes = s.pmC ^^^ 1#40)
  ∧ (s.err = false ↔ s.errCode = .none)

/-- The machine's invariant: from the first reset on, the state elements are related as the spec says. Before it
nothing is specified of them (R191). -/
abbrev State.Inv (s : State) : Prop := s.ready = true → s.elementsOk

/-- Every state element holds its reset value (the table of R190). -/
abbrev State.AtReset (s : State) : Prop :=
  s.bpMode = .idle ∧ s.bpAcc = 0#7 ∧ s.bpCnt = 0#3
  ∧ s.bpOut0 = 0#8 ∧ s.bpOut1 = 0#8 ∧ s.bpOcnt = 0
  ∧ s.pmC = 1#40 ∧ s.pmRes = 0#40 ∧ s.pmRdy = false
  ∧ s.err = false ∧ s.errCode = .none

/-- The two states agree on every `BP_*` element. -/
abbrev State.SameBitPacker (s t : State) : Prop :=
  t.bpMode = s.bpMode ∧ t.bpAcc = s.bpAcc ∧ t.bpCnt = s.bpCnt
  ∧ t.bpOut0 = s.bpOut0 ∧ t.bpOut1 = s.bpOut1 ∧ t.bpOcnt = s.bpOcnt

/-- The two states agree on every `PM_*` element. -/
abbrev State.SameChecksum (s t : State) : Prop :=
  t.pmC = s.pmC ∧ t.pmRes = s.pmRes ∧ t.pmRdy = s.pmRdy

/-- The two states agree on `ERR` and `ERR_CODE`. -/
abbrev State.SameError (s t : State) : Prop := t.err = s.err ∧ t.errCode = s.errCode

/-- The two states agree on everything around the block: the port and the power-up status. -/
abbrev State.SamePort (s t : State) : Prop :=
  t.ready = s.ready ∧ t.pending = s.pending ∧ t.replies = s.replies ∧ t.freeCount = s.freeCount

/-- The live bits in stream order: `BP_ACC[BP_CNT-1:0]`, the most significant the oldest (R22). -/
def State.liveBits (s : State) : List Bool :=
  (List.range s.bpCnt.toNat).map fun k => s.bpAcc.getLsbD (s.bpCnt.toNat - 1 - k)

/-- The opcodes of the opcode map (R72). -/
abbrev mappedOpcodes : List Nat := [0x00, 0x01, 0x10, 0x11, 0x12, 0x13, 0x14, 0x20, 0x21, 0x22, 0x23]

end Sys2Proof.Machine
end

