-- ==== Sys2Proof/Certificates/Slice0/Obligations.lean ====
section
/-! DEFINITION. The statements about BPCE, each from the rules of spec/ its docstring names. -/

open Sys2Proof Sys2Proof.Machine

/-! ## Encoding -/

/-- Decoding gives back every encoded command, whatever its operand byte (30_encoding.md R70 to R75). -/
def Obligations.DecodeOfEncode : Prop :=
  ∀ i : Instr, decode (encode i) = .ok i

/-- R75: the word an assembler writes for each command: the opcode in bits [15:8], the operand in bits [7:0], 0 for a
command without one, and 0 above. -/
def Obligations.EncodedWords : Prop :=
  encode .nop = 0x00000000#32 ∧ encode .softReset = 0x00000100#32
  ∧ encode .bpStartPack = 0x00001000#32 ∧ encode .bpStartUnpack = 0x00001100#32
  ∧ (∀ b : Byte, (encode (.bpPackByte b)).toNat = 0x1200 + b.toNat)
  ∧ (∀ b : Byte, (encode (.bpUnpackSym b)).toNat = 0x1300 + b.toNat)
  ∧ encode .bpFlush = 0x00001400#32 ∧ encode .pmInit = 0x00002000#32
  ∧ (∀ b : Byte, (encode (.pmStep b)).toNat = 0x2100 + b.toNat)
  ∧ (∀ b : Byte, (encode (.pmStepChar b)).toNat = 0x2200 + b.toNat)
  ∧ encode .pmFinal = 0x00002300#32

/-- A word decodes to a command exactly when its opcode field is that command's and, for a command with an
operand, its low byte is the operand: the whole of the map of R72, with the matching condition it states. -/
def Obligations.DecodeIsOpcodeLookup : Prop :=
  ∀ (w : Word) (i : Instr),
    (decode w = .ok i → w &&& 0x0000FF00#32 = i.opc.setWidth 32 <<< 8)
    ∧ (w &&& 0x0000FF00#32 = 0x0000#32 → decode w = .ok .nop)
    ∧ (w &&& 0x0000FF00#32 = 0x0100#32 → decode w = .ok .softReset)
    ∧ (w &&& 0x0000FF00#32 = 0x1000#32 → decode w = .ok .bpStartPack)
    ∧ (w &&& 0x0000FF00#32 = 0x1100#32 → decode w = .ok .bpStartUnpack)
    ∧ (w &&& 0x0000FF00#32 = 0x1200#32 → decode w = .ok (.bpPackByte (w.setWidth 8)))
    ∧ (w &&& 0x0000FF00#32 = 0x1300#32 → decode w = .ok (.bpUnpackSym (w.setWidth 8)))
    ∧ (w &&& 0x0000FF00#32 = 0x1400#32 → decode w = .ok .bpFlush)
    ∧ (w &&& 0x0000FF00#32 = 0x2000#32 → decode w = .ok .pmInit)
    ∧ (w &&& 0x0000FF00#32 = 0x2100#32 → decode w = .ok (.pmStep (w.setWidth 8)))
    ∧ (w &&& 0x0000FF00#32 = 0x2200#32 → decode w = .ok (.pmStepChar (w.setWidth 8)))
    ∧ (w &&& 0x0000FF00#32 = 0x2300#32 → decode w = .ok .pmFinal)
    ∧ ((∀ j : Instr, w &&& 0x0000FF00#32 ≠ j.opc.setWidth 32 <<< 8) → ∃ e, decode w = .error e)

/-- R73: a word has no command exactly when its opcode is none of the eleven; 245 opcodes are so; in the error state
an illegal word is ignored and otherwise it raises `ILLEGAL_OPCODE`. -/
def Obligations.IllegalOpcodes : Prop :=
  (∀ w : Word, (∃ e, decode w = .error e) ↔ (w.extractLsb' 8 8).toNat ∉ mappedOpcodes)
  ∧ (∀ k : Fin 256, k.val ∉ mappedOpcodes ↔
      (0x02 ≤ k.val ∧ k.val ≤ 0x0F) ∨ (0x15 ≤ k.val ∧ k.val ≤ 0x1F) ∨ 0x24 ≤ k.val)
  ∧ ((List.range 256).filter fun k => !mappedOpcodes.contains k).length = 245
  ∧ ∀ (w : Word) (s : State), (w.extractLsb' 8 8).toNat ∉ mappedOpcodes →
      executeWord w s = if s.err then .next s else .next { s with err := true, errCode := .illegalOpcode }

/-- R71 and D29: the reserved half of a word is never read, and a command without an operand does not read the
operand byte. -/
def Obligations.IgnoredFieldsDoNotDecode : Prop :=
  ∀ w v : Word,
    (w.extractLsb' 0 16 = v.extractLsb' 0 16 → decode w = decode v)
    ∧ (w.extractLsb' 8 8 = v.extractLsb' 8 8 → (w.extractLsb' 8 8).toNat ∉ [0x12, 0x13, 0x21, 0x22] →
        decode w = decode v)

/-- Words written out from the spec's encodings (95_test_vectors.md V-F-ENC and the examples of R75). -/
def Obligations.DecodeWordsOfTheSpec : Prop :=
  decode 0x00000000#32 = .ok .nop
  ∧ decode 0xFFFF2300#32 = .ok .pmFinal
  ∧ decode 0x000010AB#32 = .ok .bpStartPack
  ∧ decode 0x00002140#32 = .ok (.pmStep 0x40#8)
  ∧ decode 0x00002261#32 = .ok (.pmStepChar 0x61#8)
  ∧ decode 0x000012FF#32 = .ok (.bpPackByte 0xFF#8)
  ∧ decode 0x00000700#32 = .error (.illegalOpcode 0x07#8)
  ∧ decode 0x0000FF00#32 = .error (.illegalOpcode 0xFF#8)

/-- R75: what the assembler accepts encodes commands whose symbol operands are at most 31, so that `OPERAND_RANGE` can
only come from a word built by hand. -/
def Obligations.AssembledCommandsStayInRange : Prop :=
  ∀ (line : List Char) (commands : List Instr), assembleCommands line = .ok commands →
    ∀ i ∈ commands, i.wellFormed = true
      ∧ ∀ s t : State, exec i s = .next t → t.errCode = .operandRange → s.errCode = .operandRange

/-- The pseudo-commands of R76, on lines as the model writes them. A `PM_STR` line stands for one `PM_STEP_CHAR` per
character of its string (34 is the double quote), `PM_SEP` for one `PM_STEP 0x00` and `PM_PAD8` for eight, and a line of
`PM_SYMS`, `BP_PACK_BYTES` or `BP_UNPACK_SYMS` with a list of hexadecimal operands for one command per operand, in order.
What the string may hold (a semicolon and control codes among its characters, no double quote) and that an operand list
is not empty are the model's choice about the line's form (DESIGN CHOICE, log entry 8), not R76's or R75's words. -/
def Obligations.PseudoCommandsExpand : Prop :=
  (∀ chars : List Char, (∀ c ∈ chars, c.toNat ≤ 127 ∧ c.toNat ≠ 34) →
    assembleCommands (['P', 'M', '_', 'S', 'T', 'R', ' ', Char.ofNat 34] ++ chars ++ [Char.ofNat 34])
      = .ok (chars.map fun c => .pmStepChar (BitVec.ofNat 8 c.toNat)))
  ∧ assembleCommands ['P', 'M', '_', 'S', 'E', 'P'] = .ok [.pmStep 0x00#8]
  ∧ assembleCommands ['P', 'M', '_', 'P', 'A', 'D', '8'] = .ok (List.replicate 8 (.pmStep 0x00#8))
  ∧ (∀ symbols : List Sym, symbols ≠ [] →
      assembleCommands (['P', 'M', '_', 'S', 'Y', 'M', 'S'] ++ writeOperands (symbols.map symbolOpnd))
        = .ok (symbols.map fun v => .pmStep (symbolOpnd v)))
  ∧ (∀ bytes : List Byte, bytes ≠ [] →
      assembleCommands (['B', 'P', '_', 'P', 'A', 'C', 'K', '_', 'B', 'Y', 'T', 'E', 'S'] ++ writeOperands bytes)
        = .ok (bytes.map .bpPackByte))
  ∧ (∀ symbols : List Sym, symbols ≠ [] →
      assembleCommands (['B', 'P', '_', 'U', 'N', 'P', 'A', 'C', 'K', '_', 'S', 'Y', 'M', 'S']
          ++ writeOperands (symbols.map symbolOpnd))
        = .ok (symbols.map fun v => .bpUnpackSym (symbolOpnd v)))

/-! ## The port -/

/-- R70: what a write of the word `w` to `CMD` does, as the pseudocode `execute(w)` says, for a block that has been
reset: in the error state nothing unless the opcode is 0x01; an illegal opcode is an error; any other word runs
the meaning of the command it decodes to. -/
def Obligations.StepRunsDecodedCommand : Prop :=
  ∀ (s : State) (w : Word) (rest : List Event), s.ready = true → s.pending = .write 0x0#4 w :: rest →
    (s.err = true → w.extractLsb' 8 8 ≠ 0x01#8 → step s = .next { s with pending := rest })
    ∧ ((s.err = false ∨ w.extractLsb' 8 8 = 0x01#8) → ∀ i, decode w = .ok i →
        step s = exec i { s with pending := rest })
    ∧ (s.err = false → (∃ e, decode w = .error e) →
        step s = .next { s with pending := rest, err := true, errCode := .illegalOpcode })
    ∧ (∀ i, decode w = .ok i → step s = exec i { s with pending := rest })

/-- R35: a write to `CMD` executes one command; a write to any other index changes no state; a read of any index returns
its register and changes no state element; `CMD` and the reserved indices read 0 (R36, R43). -/
def Obligations.PortAccessRights : Prop :=
  ∀ (s : State) (idx : RegIdx) (v : Word) (rest : List Event), s.ready = true →
    (s.pending = .write 0x0#4 v :: rest → step s = executeWord v { s with pending := rest })
    ∧ (idx ≠ 0x0#4 → s.pending = .write idx v :: rest → step s = .next { s with pending := rest })
    ∧ (s.pending = .read idx :: rest →
        step s = .next { s with pending := rest, replies := s.replies ++ [hostRead idx s] })
    ∧ ((idx = 0x0#4 ∨ 0xA ≤ idx.toNat) → hostRead idx s = 0#32)

/-- R60 (a) to (d), with the two accesses next in the port: a read after a command sees its effect, a read before it
does not, two commands take effect in issue order, and two reads in a row see the same state. -/
def Obligations.AccessesInIssueOrder : Prop :=
  ∀ (s t : State) (w v : Word) (idx idx' : RegIdx) (rest : List Event), s.ready = true →
    (s.pending = .write 0x0#4 w :: .read idx :: rest → executeWord w s = .next t →
      core.run 2 s = .next { t with pending := rest, replies := s.replies ++ [hostRead idx t] })
    ∧ (s.pending = .read idx :: .write 0x0#4 w :: rest → executeWord w s = .next t →
      ∃ u, core.run 2 s = .next u ∧ u.pending = rest ∧ u.replies = s.replies ++ [hostRead idx s])
    ∧ (s.pending = .write 0x0#4 w :: .write 0x0#4 v :: rest → executeWord w s = .next t →
      core.run 2 s = executeWord v { t with pending := rest })
    ∧ (s.pending = .read idx :: .read idx' :: rest →
      core.run 2 s = .next { s with pending := rest, replies := s.replies ++ [hostRead idx s, hostRead idx' s] })

/-- R197: reads of both halves of a two-register value, with no command between them, return the halves of one value:
`PM_C`, `PM_RES` and the eight checksum symbols of the state the reads begin in. -/
def Obligations.TwoRegisterReadsAgree : Prop :=
  ∀ (s : State) (rest : List Event), s.ready = true →
    (s.pending = .read 0x4#4 :: .read 0x5#4 :: rest → ∃ t lo hi, core.run 2 s = .next t
      ∧ t.replies = s.replies ++ [lo, hi] ∧ hi.toNat * 2 ^ 32 + lo.toNat = s.pmC.toNat)
    ∧ (s.pending = .read 0x6#4 :: .read 0x7#4 :: rest → ∃ t lo hi, core.run 2 s = .next t
      ∧ t.replies = s.replies ++ [lo, hi] ∧ hi.toNat * 2 ^ 32 + lo.toNat = s.pmRes.toNat)
    ∧ (s.pending = .read 0x8#4 :: .read 0x9#4 :: rest → ∃ t lo hi, core.run 2 s = .next t
      ∧ t.replies = s.replies ++ [lo, hi]
      ∧ ∀ k : Fin 8, (hi.toNat * 2 ^ 32 + lo.toNat) / 2 ^ (8 * k.val) % 256 = (pmSym s k).toNat)

/-- With nothing issued by the host the block holds its state, however long it runs: the model's reading of R50 and R184
(DEDUCED, log entry 7). -/
def Obligations.IdleBlockHoldsItsState : Prop :=
  ∀ (n : Nat) (s : State), s.pending = [] → core.run n s = .next s

/-- The port carries out a host's procedure as the commands themselves do: writing each command to `CMD` and reading
`BP_OUT` and `STATUS` after it collects the values the commands emit (20_memory.md R55, R60; 10_state.md R37, R38). -/
def Obligations.PortRefinesCommands : Prop :=
  ∀ (commands : List Instr) (s t : State) (values : List Byte) (rest : List Event),
    s.ready = true → s.replies = [] → s.pending = commandsWithReads commands ++ rest →
    runCollect commands s = some (t, values) →
    ∃ u, core.run (3 * commands.length) s = .next u
      ∧ collectReplies u.replies = values
      ∧ u = { t with pending := rest, replies := u.replies }

/-- R182: what one block does never changes another block of the platform. -/
def Obligations.BlocksShareNothing : Prop :=
  ∀ (p q : Platform) (k j : Nat), j ≠ k → p.stepBlock k = .next q → q[j]? = p[j]? ∧ q.length = p.length

/-- The model's choices on power (log entries 4 and 5; R184, R191, R192): before the first reset every host access but
a `SOFT_RESET` written to `CMD` is refused, and the reset input and that write make the block ready, with
every element at its reset value. That these two leave the accesses the host has issued after them is the model's choice
too (DESIGN CHOICE, log entry 10). -/
def Obligations.AccessBeforeResetRefused : Prop :=
  ∀ (s : State) (idx : RegIdx) (w : Word) (rest : List Event), s.ready = false →
    (s.pending = .read idx :: rest → step s = .refused .accessBeforeReset)
    ∧ (s.pending = .write idx w :: rest → (idx ≠ 0x0#4 ∨ w.extractLsb' 8 8 ≠ 0x01#8) →
        step s = .refused .accessBeforeReset)
    ∧ (s.pending = .write idx w :: rest → idx = 0x0#4 → w.extractLsb' 8 8 = 0x01#8 →
        ∃ t, step s = .next t ∧ t.AtReset ∧ t.ready = true ∧ t.pending = rest)
    ∧ (s.pending = .resetInput :: rest →
        ∃ t, step s = .next t ∧ t.AtReset ∧ t.ready = true ∧ t.pending = rest)

/-- The model's choices on a power loss (R184): it is an event after which the block is not ready until a reset (DESIGN
CHOICE, log entry 5), and whatever the host has issued and read stays (DESIGN CHOICE, log entry 10). -/
def Obligations.PowerLossNeedsReset : Prop :=
  ∀ (s : State) (rest : List Event), s.pending = .powerLoss :: rest →
    ∃ t, step s = .next t ∧ t.ready = false ∧ t.pending = rest ∧ t.replies = s.replies

/-! ## Reset and control -/

/-- R190: asserting the reset input, or executing `SOFT_RESET`, sets every state element to its reset value, and the
derived values and host registers then read as the rule lists. That the reset input leaves the accesses the host has
issued and the words it has read is the model's choice (DESIGN CHOICE, log entry 10), not R190's words. -/
def Obligations.ResetValuesAndRegisters : Prop :=
  (∀ (s : State) (rest : List Event), s.pending = .resetInput :: rest →
    ∃ t, step s = .next t ∧ t.AtReset ∧ t.pending = rest ∧ t.replies = s.replies)
  ∧ (∀ s : State, ∃ t, exec .softReset s = .next t ∧ t.AtReset)
  ∧ State.reset.AtReset
  ∧ ∀ s : State, s.AtReset →
      pmZero s = false ∧ (∀ i, pmSym s i = 0#5)
      ∧ ∀ idx : RegIdx, hostRead idx s = if idx = 0x4#4 then 0x00000001#32 else 0#32

/-- R161: `SOFT_RESET` gives, from every state and in the error state too, every element its reset value, the same as
the reset input gives. That it leaves the accesses the host has issued, the words it has read (DESIGN CHOICE, log
entry 10) and the counter of free values (DESIGN CHOICE, log entry 5) is the model's choice, not R161's words. -/
def Obligations.SoftResetFromEveryState : Prop :=
  (∀ w : Word, w.extractLsb' 8 8 = 0x01#8 → decode w = .ok .softReset)
  ∧ ∀ s : State, ∃ t, exec .softReset s = .next t
    ∧ t.bpMode = .idle ∧ t.bpAcc = 0#7 ∧ t.bpCnt = 0#3
    ∧ t.bpOut0 = 0#8 ∧ t.bpOut1 = 0#8 ∧ t.bpOcnt = 0
    ∧ t.pmC = 1#40 ∧ t.pmRes = 0#40 ∧ t.pmRdy = false
    ∧ t.err = false ∧ t.errCode = .none
    ∧ t.pending = s.pending ∧ t.replies = s.replies ∧ t.freeCount = s.freeCount
    ∧ performEvent .resetInput s = .next t ∧ hostRead 0x1#4 t = 0#32 ∧ exec .softReset t = .next t

/-- R160: `NOP` changes nothing, with any operand byte and any reserved bits, in the error state too. -/
def Obligations.NopChangesNothing : Prop :=
  (∀ s : State, exec .nop s = .next s)
  ∧ ∀ (s : State) (w : Word) (rest : List Event), s.ready = true → w.extractLsb' 8 8 = 0x00#8 →
      s.pending = .write 0x0#4 w :: rest → step s = .next { s with pending := rest }

/-! ## The BitPacker -/

/-- R102: `BP_START_PACK` opens a pack stream in every mode; live bits are discarded, nothing is emitted, and nothing
else changes. -/
def Obligations.StartPackOpensStream : Prop :=
  (∀ w : Word, w.extractLsb' 8 8 = 0x10#8 → decode w = .ok .bpStartPack)
  ∧ (∀ s : State, s.err = false → exec .bpStartPack s =
      .next { s with bpMode := .pack, bpAcc := 0#7, bpCnt := 0#3, bpOut0 := 0#8, bpOut1 := 0#8, bpOcnt := 0 })
  ∧ ∀ t : State, exec .bpStartPack State.reset = .next t → hostRead 0x1#4 t = 0x00000010#32

/-- R103: `BP_START_UNPACK` opens an unpack stream in every mode; live bits are discarded, nothing is emitted, and
nothing else changes. -/
def Obligations.StartUnpackOpensStream : Prop :=
  (∀ w : Word, w.extractLsb' 8 8 = 0x11#8 → decode w = .ok .bpStartUnpack)
  ∧ (∀ s : State, s.err = false → exec .bpStartUnpack s =
      .next { s with bpMode := .unpack, bpAcc := 0#7, bpCnt := 0#3, bpOut0 := 0#8, bpOut1 := 0#8, bpOcnt := 0 })
  ∧ ∀ t : State, exec .bpStartUnpack State.reset = .next t → hostRead 0x1#4 t = 0x00000020#32

/-- R104: `BP_PACK_BYTE b`, in numbers: with `t = BP_ACC * 256 + b` of `n = BP_CNT + 8` bits, the top one or two
5-bit groups are emitted and the rest is kept; outside pack mode the command is `MODE_CONFLICT` and writes
only `ERR` and `ERR_CODE`. Nothing else changes. The live bits are of the form R179 says every state has. -/
def Obligations.PackBytePush : Prop :=
  (∀ w : Word, w.extractLsb' 8 8 = 0x12#8 → decode w = .ok (.bpPackByte (w.extractLsb' 0 8)))
  ∧ ∀ (b : Byte) (s : State), s.err = false →
    (s.bpMode ≠ .pack → exec (.bpPackByte b) s = .next { s with err := true, errCode := .modeConflict })
    ∧ (s.bpMode = .pack → s.liveOk → 10 ≤ s.bpCnt.toNat + 8 →
        let t := s.bpAcc.toNat * 256 + b.toNat
        let n := s.bpCnt.toNat + 8
        exec (.bpPackByte b) s = .next { s with
          bpOut0 := BitVec.ofNat 8 (t / 2 ^ (n - 5) % 32), bpOut1 := BitVec.ofNat 8 (t / 2 ^ (n - 10) % 32), bpOcnt := 2,
          bpCnt := BitVec.ofNat 3 (n - 10), bpAcc := BitVec.ofNat 7 (t % 2 ^ (n - 10)) })
    ∧ (s.bpMode = .pack → s.liveOk → s.bpCnt.toNat + 8 < 10 →
        let t := s.bpAcc.toNat * 256 + b.toNat
        let n := s.bpCnt.toNat + 8
        exec (.bpPackByte b) s = .next { s with
          bpOut0 := BitVec.ofNat 8 (t / 2 ^ (n - 5) % 32), bpOut1 := 0#8, bpOcnt := 1,
          bpCnt := BitVec.ofNat 3 (n - 5), bpAcc := BitVec.ofNat 7 (t % 2 ^ (n - 5)) })

/-- R105: `BP_UNPACK_SYM s`, in numbers: with `t = BP_ACC * 32 + s` of `n = BP_CNT + 5` bits, a byte is emitted when 8
bits are there and the rest is kept; `MODE_CONFLICT` outside unpack mode, otherwise `OPERAND_RANGE` for an operand above
31, each writing only `ERR` and `ERR_CODE`. Nothing else changes. -/
def Obligations.UnpackSymbolPush : Prop :=
  (∀ w : Word, w.extractLsb' 8 8 = 0x13#8 → decode w = .ok (.bpUnpackSym (w.extractLsb' 0 8)))
  ∧ ∀ (opnd : Byte) (s : State), s.err = false →
    (s.bpMode ≠ .unpack → exec (.bpUnpackSym opnd) s = .next { s with err := true, errCode := .modeConflict })
    ∧ (s.bpMode = .unpack → 31 < opnd.toNat →
        exec (.bpUnpackSym opnd) s = .next { s with err := true, errCode := .operandRange })
    ∧ (s.bpMode = .unpack → opnd.toNat ≤ 31 → s.liveOk → 8 ≤ s.bpCnt.toNat + 5 →
        let t := s.bpAcc.toNat * 32 + opnd.toNat
        let n := s.bpCnt.toNat + 5
        exec (.bpUnpackSym opnd) s = .next { s with
          bpOut0 := BitVec.ofNat 8 (t / 2 ^ (n - 8)), bpOut1 := 0#8, bpOcnt := 1,
          bpCnt := BitVec.ofNat 3 (n - 8), bpAcc := BitVec.ofNat 7 (t % 2 ^ (n - 8)) })
    ∧ (s.bpMode = .unpack → opnd.toNat ≤ 31 → s.liveOk → s.bpCnt.toNat + 5 < 8 →
        let t := s.bpAcc.toNat * 32 + opnd.toNat
        let n := s.bpCnt.toNat + 5
        exec (.bpUnpackSym opnd) s = .next { s with
          bpOut0 := 0#8, bpOut1 := 0#8, bpOcnt := 0, bpCnt := BitVec.ofNat 3 n, bpAcc := BitVec.ofNat 7 t })

/-- R107 and R108: `BP_FLUSH` emits the padded last symbol in pack mode with live bits and nothing otherwise, discards
whatever is left without a check, never raises an error and always ends in IDLE. Nothing else changes. -/
def Obligations.FlushClosesStream : Prop :=
  (∀ w : Word, w.extractLsb' 8 8 = 0x14#8 → decode w = .ok .bpFlush)
  ∧ ∀ s : State, s.err = false →
    (s.bpMode = .pack → s.liveOk → 0 < s.bpCnt.toNat →
      exec .bpFlush s = .next { s with
        bpMode := .idle, bpAcc := 0#7, bpCnt := 0#3, bpOut1 := 0#8, bpOcnt := 1,
        bpOut0 := BitVec.ofNat 8 (s.bpAcc.toNat * 2 ^ (5 - s.bpCnt.toNat) % 32) })
    ∧ ((s.bpMode = .pack → s.liveOk ∧ s.bpCnt = 0#3) →
      exec .bpFlush s = .next { s with
        bpMode := .idle, bpAcc := 0#7, bpCnt := 0#3, bpOut0 := 0#8, bpOut1 := 0#8, bpOcnt := 0 })

/-- R101: the number of values a push emits and the number of live bits it leaves, for every number of live bits
before it. -/
def Obligations.PushCounts : Prop :=
  ∀ s : State, s.err = false → s.liveOk →
    (s.bpMode = .pack → ∀ b, ∃ t, exec (.bpPackByte b) s = .next t
      ∧ (t.bpOcnt.val, t.bpCnt.toNat) = [(1, 3), (1, 4), (2, 0), (2, 1), (2, 2)].getD s.bpCnt.toNat (0, 0))
    ∧ (s.bpMode = .unpack → ∀ opnd : Byte, opnd.toNat ≤ 31 → ∃ t, exec (.bpUnpackSym opnd) s = .next t
      ∧ (t.bpOcnt.val, t.bpCnt.toNat) =
          [(0, 5), (0, 6), (0, 7), (1, 0), (1, 1), (1, 2), (1, 3), (1, 4)].getD s.bpCnt.toNat (0, 0))

/-- R100 with R52: a push appends the bits of its operand, most significant first, to the live bits; what it emits are
the oldest of these bits and what it keeps are the rest. -/
def Obligations.PushExtendsBitstream : Prop :=
  ∀ s : State, s.err = false → s.liveOk →
    (s.bpMode = .pack → ∀ b, ∃ t, exec (.bpPackByte b) s = .next t
      ∧ s.liveBits ++ byteBits b = (t.emitted.flatMap fun v => symBits (v.setWidth 5)) ++ t.liveBits)
    ∧ (s.bpMode = .unpack → ∀ opnd : Byte, opnd.toNat ≤ 31 → ∃ t, exec (.bpUnpackSym opnd) s = .next t
      ∧ s.liveBits ++ symBits (opnd.setWidth 5) = t.emitted.flatMap byteBits ++ t.liveBits)

/-- R106: the values collected from `BP_START_PACK`, one push per byte and `BP_FLUSH` are `pack5` of the bytes, for every
byte stream of any length, with no error, whatever the block held before. -/
def Obligations.PackStreamIsPack5 : Prop :=
  ∀ (bytes : List Byte) (s : State), s.err = false →
    ∃ t, runCollect (packProc bytes) s = some (t, (pack5 bytes).map (BitVec.setWidth 8))
      ∧ t.err = false ∧ t.bpMode = .idle ∧ (pack5 bytes).length = (8 * bytes.length + 4) / 5

/-- R109: the values collected from `BP_START_UNPACK`, one push per symbol and `BP_FLUSH` are `unpack5` of the symbols,
with no error, and the flush discards `(5*N) mod 8` bits. -/
def Obligations.UnpackStreamIsUnpack5 : Prop :=
  ∀ (symbols : List Sym) (s : State), s.err = false →
    (∃ t, runCollect (unpackProc symbols) s = some (t, unpack5 symbols)
      ∧ t.err = false ∧ t.bpMode = .idle ∧ (unpack5 symbols).length = 5 * symbols.length / 8)
    ∧ ∃ u, runCommands ([.bpStartUnpack] ++ (Pseudo.bpUnpackSyms symbols).expand) s = .next u
      ∧ u.bpCnt.toNat = 5 * symbols.length % 8

/-- R110: a byte stream packed by the block and unpacked again by the block comes back unchanged; the converse fails
for some symbol stream. -/
def Obligations.UnpackAfterPackIsIdentity : Prop :=
  (∀ (bytes : List Byte) (s : State), s.err = false →
    ∃ t values u, runCollect (packProc bytes) s = some (t, values)
      ∧ runCollect (unpackProc (values.map (BitVec.setWidth 5))) t = some (u, bytes))
  ∧ (∀ L : Nat, 5 * ((8 * L + 4) / 5) / 8 = L)
  ∧ ∃ symbols : List Sym, pack5 (unpack5 symbols) ≠ symbols

/-- R111: the live-bit counts and the emitted counts after each push repeat with period 5 in pack mode and 8 in
unpack mode. -/
def Obligations.PushCountsArePeriodic : Prop :=
  ∀ s : State, s.err = false →
    (∀ (bytes : List Byte) (b : Byte),
      ∃ t, runCommands ([.bpStartPack] ++ (Pseudo.bpPackBytes (bytes ++ [b])).expand) s = .next t
        ∧ t.bpCnt.toNat = [3, 1, 4, 2, 0].getD (bytes.length % 5) 0
        ∧ t.bpOcnt.val = [1, 2, 1, 2, 2].getD (bytes.length % 5) 0)
    ∧ ∀ (symbols : List Sym) (v : Sym),
      ∃ t, runCommands ([.bpStartUnpack] ++ (Pseudo.bpUnpackSyms (symbols ++ [v])).expand) s = .next t
        ∧ t.bpCnt.toNat = [5, 2, 7, 4, 1, 6, 3, 0].getD (symbols.length % 8) 0
        ∧ t.bpOcnt.val = [0, 1, 0, 1, 1, 0, 1, 1].getD (symbols.length % 8) 0

/-- R112: an open stream goes on through every command but `BP_FLUSH`, the two starts and `SOFT_RESET`; and a
ChecksumEngine command or `NOP` neither writes nor reads a `BP_*` element. -/
def Obligations.StreamEndsOnlyByItsCommands : Prop :=
  ∀ (i : Instr) (s t : State), exec i s = .next t →
    (i ∉ [.bpFlush, .bpStartPack, .bpStartUnpack, .softReset] → t.bpMode = s.bpMode)
    ∧ (i.isChecksum = true ∨ i = .nop → s.SameBitPacker t)
    ∧ (i.isChecksum = true ∨ i = .nop → ∀ s', s.SameChecksum s' → s.SameError s' →
        ∃ t', exec i s' = .next t' ∧ t.SameChecksum t' ∧ t.SameError t')

/-! ## The ChecksumEngine -/

/-- R130: the step function: the low 35 bits move up by 5, `d` enters, and for each set bit of the top five the
generator of that bit is XORed in. -/
def Obligations.PmStepFormula : Prop :=
  ∀ (c : PmWord) (d : Sym),
    pmStep c d = ((c &&& 0x07FFFFFFFF#40) <<< 5) ^^^ d.setWidth 40
      ^^^ (if c.getLsbD 35 then gen 0 else 0#40) ^^^ (if c.getLsbD 36 then gen 1 else 0#40)
      ^^^ (if c.getLsbD 37 then gen 2 else 0#40) ^^^ (if c.getLsbD 38 then gen 3 else 0#40)
      ^^^ (if c.getLsbD 39 then gen 4 else 0#40)

/-- The generator table (R131), read off the step function: one of the top five bits set, any low bits and any `d`. The
values are those the model takes from R131 (PRESUMED, log entry 3). -/
def Obligations.GeneratorTable : Prop :=
  ∀ (c : PmWord) (d : Sym),
    let low := c &&& 0x07FFFFFFFF#40
    pmStep (low ||| 0x0800000000#40) d = 0x98F2BC8E61#40 ^^^ (low <<< 5) ^^^ d.setWidth 40
    ∧ pmStep (low ||| 0x1000000000#40) d = 0x79B76D99E2#40 ^^^ (low <<< 5) ^^^ d.setWidth 40
    ∧ pmStep (low ||| 0x2000000000#40) d = 0xF33E5FB3C4#40 ^^^ (low <<< 5) ^^^ d.setWidth 40
    ∧ pmStep (low ||| 0x4000000000#40) d = 0xAE2EABE2A8#40 ^^^ (low <<< 5) ^^^ d.setWidth 40
    ∧ pmStep (low ||| 0x8000000000#40) d = 0x1E4F43E470#40 ^^^ (low <<< 5) ^^^ d.setWidth 40

/-- R140: the step function is linear over GF(2), and is 0 at 0. -/
def Obligations.PmStepIsLinear : Prop :=
  (∀ (c c' : PmWord) (d d' : Sym), pmStep (c ^^^ c') (d ^^^ d') = pmStep c d ^^^ pmStep c' d')
  ∧ pmStep 0#40 0#5 = 0#40

/-- R132: `PM_INIT` sets `PM_C` to 1 and clears `PM_RDY`; `PM_ZERO` then reads 0 and nothing else changes. -/
def Obligations.PmInitStartsComputation : Prop :=
  (∀ w : Word, w.extractLsb' 8 8 = 0x20#8 → decode w = .ok .pmInit)
  ∧ ∀ s : State, s.err = false →
    exec .pmInit s = .next { s with pmC := 1#40, pmRdy := false }
    ∧ ∀ t, exec .pmInit s = .next t →
        pmZero t = false ∧ hostRead 0x4#4 t = 0x00000001#32 ∧ hostRead 0x5#4 t = 0#32

/-- R133: `PM_STEP d` with `d <= 31` steps `PM_C` and clears `PM_RDY`; above 31 it is `OPERAND_RANGE` and writes only
`ERR` and `ERR_CODE`. Nothing else changes. -/
def Obligations.PmStepCommand : Prop :=
  (∀ w : Word, w.extractLsb' 8 8 = 0x21#8 → decode w = .ok (.pmStep (w.extractLsb' 0 8)))
  ∧ ∀ (opnd : Byte) (s : State), s.err = false →
    (opnd.toNat ≤ 31 → exec (.pmStep opnd) s =
      .next { s with pmC := pmStep s.pmC (opnd.extractLsb' 0 5), pmRdy := false })
    ∧ (31 < opnd.toNat → exec (.pmStep opnd) s = .next { s with err := true, errCode := .operandRange })

/-- R134: `PM_STEP_CHAR c` steps with the low 5 bits of any byte, raises no error, and does what `PM_STEP (c & 0x1F)`
does. Nothing but `PM_C` and `PM_RDY` changes. -/
def Obligations.PmStepCharCommand : Prop :=
  (∀ w : Word, w.extractLsb' 8 8 = 0x22#8 → decode w = .ok (.pmStepChar (w.extractLsb' 0 8)))
  ∧ ∀ (opnd : Byte) (s : State),
    (s.err = false → exec (.pmStepChar opnd) s =
      .next { s with pmC := pmStep s.pmC (opnd.extractLsb' 0 5), pmRdy := false })
    ∧ exec (.pmStepChar opnd) s = exec (.pmStep (opnd &&& 0x1F#8)) s
    ∧ exec (.pmStepChar 0x61#8) s = exec (.pmStepChar 0x41#8) s

/-- R135: `PM_FINAL` publishes `PM_C ^ 1` and sets `PM_RDY`; `PM_ZERO` then says whether `PM_C` is 1; a second
`PM_FINAL` changes nothing. Nothing else changes. -/
def Obligations.PmFinalPublishesResult : Prop :=
  (∀ w : Word, w.extractLsb' 8 8 = 0x23#8 → decode w = .ok .pmFinal)
  ∧ ∀ s : State, s.err = false →
    exec .pmFinal s = .next { s with pmRes := s.pmC ^^^ 1#40, pmRdy := true }
    ∧ ∀ t, exec .pmFinal s = .next t → (pmZero t = true ↔ s.pmC = 1#40) ∧ exec .pmFinal t = .next t

/-- R136: `PM_INIT`, one step per value, `PM_FINAL` leaves `polymod` of the values, for any sequence; each step may be
a `PM_STEP` of the value or a `PM_STEP_CHAR` of any byte with these low 5 bits. -/
def Obligations.StepsComputePolymod : Prop :=
  ∀ (commands : List Instr) (values : List Sym) (s : State), s.err = false →
    List.Forall₂ (fun i v => i = .pmStep (symbolOpnd v) ∨ ∃ x : Byte, i = .pmStepChar x ∧ x.extractLsb' 0 5 = v)
      commands values →
    ∃ t, runCommands ([.pmInit] ++ commands ++ [.pmFinal]) s = .next t
      ∧ t.pmRes = polymod values ∧ t.pmRdy = true ∧ t.err = false

/-- R137 with R141: the checksum sequence leaves `checksum(p, P)` in `PM_SYM[0..7]`, in stream order, whether or not the
host has lowercased the prefix it steps in (the letter case is R141's part). The lowercasing of the reference function is
the model's reading (DEDUCED, log entry 11): it acts on ASCII letters and on no other byte, and for bytes above 0x7F no
result of the source is claimed (N12). -/
def Obligations.ChecksumSequence : Prop :=
  ∀ (chars stepped : List Byte) (payload : List Sym) (s : State), s.err = false →
    stepped.map asciiLower = chars.map asciiLower →
    ∃ t, runCommands (checksumProc stepped payload) s = .next t
      ∧ (List.finRange 8).map (pmSym t) = checksum chars payload ∧ t.pmRdy = true ∧ t.err = false

/-- R139: the validation sequence leaves `PM_ZERO = 1` exactly when `polymod` of prefix, separator, payload and checksum
is 0; then `PM_C = 1` and `PM_RES = 0`. The prefix's values are those of the model's lowercasing (DEDUCED, log
entry 11). -/
def Obligations.ValidationSequence : Prop :=
  ∀ (chars : List Byte) (payload check : List Sym) (s : State), s.err = false → check.length = 8 →
    ∃ t, runCommands (validateProc chars payload check) s = .next t ∧ t.err = false
      ∧ (pmZero t = true ↔ polymod (prefixSymbols chars ++ payload ++ check) = 0#40)
      ∧ (pmZero t = true → t.pmC = 1#40 ∧ t.pmRes = 0#40)

/-- R137 with R139 (the round trip of 95_test_vectors.md V-L1-7): the validation sequence accepts the eight symbols the
checksum sequence computes for the same prefix and payload, and no other eight symbols. The prefix's lowercasing, bytes
above 0x7F included, is the model's reading (DEDUCED, log entry 11). -/
def Obligations.ValidationAcceptsExactlyTheChecksum : Prop :=
  ∀ (chars : List Byte) (payload check : List Sym) (s : State), s.err = false → check.length = 8 →
    ∃ t, runCommands (validateProc chars payload check) s = .next t
      ∧ (pmZero t = true ↔ check = checksum chars payload)

/-- R141: prefixes that differ only in the case of ASCII letters have the same effect. -/
def Obligations.PrefixCaseHasNoEffect : Prop :=
  ∀ (p q : List Byte) (s : State), p.map asciiLower = q.map asciiLower →
    runCommands ((Pseudo.pmStr p).expand) s = runCommands ((Pseudo.pmStr q).expand) s

/-! ## Errors -/

/-- R173 with R170 and R171: the checks of a command word in their order, the first that applies deciding; an error
writes `ERR` and `ERR_CODE` and nothing else. When none applies the command completes without an error. -/
def Obligations.ErrorPriority : Prop :=
  ∀ (w : Word) (s : State),
    let opc := (w.extractLsb' 8 8).toNat
    let opnd := (w.extractLsb' 0 8).toNat
    if s.err = true ∧ opc ≠ 0x01 then executeWord w s = .next s
    else if opc ∉ mappedOpcodes then executeWord w s = .next { s with err := true, errCode := .illegalOpcode }
    else if (opc = 0x12 ∧ s.bpMode ≠ .pack) ∨ (opc = 0x13 ∧ s.bpMode ≠ .unpack) then
      executeWord w s = .next { s with err := true, errCode := .modeConflict }
    else if (opc = 0x13 ∨ opc = 0x21) ∧ 31 < opnd then
      executeWord w s = .next { s with err := true, errCode := .operandRange }
    else s.liveOk → ∃ t, executeWord w s = .next t ∧ t.err = false

/-- R172: while `ERR = 1` a word whose opcode is not 0x01 changes nothing, `ERR_CODE` included; `SOFT_RESET` executes;
and a read still returns its register. -/
def Obligations.ErrorStateIgnoresCommands : Prop :=
  ∀ (w : Word) (s : State), s.err = true →
    (w.extractLsb' 8 8 ≠ 0x01#8 → executeWord w s = .next s)
    ∧ (w.extractLsb' 8 8 = 0x01#8 → ∃ t, executeWord w s = .next t ∧ t.AtReset)
    ∧ ∀ (idx : RegIdx) (rest : List Event), s.ready = true → s.pending = .read idx :: rest →
        step s = .next { s with pending := rest, replies := s.replies ++ [hostRead idx s] }

/-- R175: an error is precise. Whatever commands came before it have completed, the failing command has written only
`ERR` and `ERR_CODE`, and no later command but `SOFT_RESET` has an effect. -/
def Obligations.ErrorsArePrecise : Prop :=
  ∀ (before after : List Instr) (i : Instr) (s t u : State),
    runCommands before s = .next t → t.err = false → exec i t = .next u → u.err = true → .softReset ∉ after →
    u = { t with err := true, errCode := u.errCode } ∧ u.errCode ≠ .none
      ∧ runCommands (before ++ [i] ++ after) s = .next u

/-- R176: while power is not lost, the only ways out of the error state are `SOFT_RESET` and the reset input, and both set
every element to its reset value. -/
def Obligations.ErrorLeftOnlyByReset : Prop :=
  ∀ s t : State, s.err = true → (∀ rest, s.pending ≠ .powerLoss :: rest) → step s = .next t → t.err = false →
    t.AtReset
    ∧ ((∃ rest, s.pending = .resetInput :: rest)
      ∨ ∃ w rest, s.pending = .write 0x0#4 w :: rest ∧ decode w = .ok .softReset)

/-! ## Host registers -/

/-- R37: the fields of `STATUS`, for every state: each at its place, the reserved bits 0, no value that the table says
is never produced. -/
def Obligations.StatusLayout : Prop :=
  ∀ s : State,
    let r := hostRead 0x1#4 s
    r.extractLsb' 0 1 = BitVec.ofBool s.err
    ∧ r.extractLsb' 1 3 = s.errCode.toBits ∧ (r.extractLsb' 1 3).toNat ≤ 3
    ∧ r.extractLsb' 4 2 = s.bpMode.toBits ∧ (r.extractLsb' 4 2).toNat ≤ 2
    ∧ (r.extractLsb' 6 2).toNat = s.bpOcnt.val ∧ (r.extractLsb' 6 2).toNat ≤ 2
    ∧ r.extractLsb' 8 3 = s.bpCnt
    ∧ r.extractLsb' 11 1 = 0#1
    ∧ r.extractLsb' 12 1 = BitVec.ofBool s.pmRdy
    ∧ r.extractLsb' 13 1 = BitVec.ofBool (s.pmRdy && s.pmRes == 0#40)
    ∧ r.extractLsb' 14 18 = 0#18
    ∧ hostRead 0x1#4 State.reset = 0x00000000#32

/-- R38 to R42 with R30: the data registers, as numbers, for every state. -/
def Obligations.DataRegisters : Prop :=
  ∀ s : State,
    (hostRead 0x2#4 s).toNat = s.bpOut1.toNat * 2 ^ 8 + s.bpOut0.toNat
    ∧ (hostRead 0x3#4 s).toNat = s.bpAcc.toNat
    ∧ (hostRead 0x4#4 s).toNat = s.pmC.toNat % 2 ^ 32
    ∧ (hostRead 0x5#4 s).toNat = s.pmC.toNat / 2 ^ 32
    ∧ (hostRead 0x6#4 s).toNat = s.pmRes.toNat % 2 ^ 32
    ∧ (hostRead 0x7#4 s).toNat = s.pmRes.toNat / 2 ^ 32
    ∧ (∀ k : Fin 8, (pmSym s k).toNat = s.pmRes.toNat / 2 ^ (5 * (7 - k.val)) % 32)
    ∧ (∀ k : Fin 4, (hostRead 0x8#4 s).toNat / 2 ^ (8 * k.val) % 256
        = s.pmRes.toNat / 2 ^ (5 * (7 - k.val)) % 32)
    ∧ (∀ k : Fin 4, (hostRead 0x9#4 s).toNat / 2 ^ (8 * k.val) % 256
        = s.pmRes.toNat / 2 ^ (5 * (3 - k.val)) % 32)
    ∧ ∀ idx : RegIdx, hostRead idx State.reset = if idx = 0x4#4 then 0x00000001#32 else 0#32

/-- R33: the host can read every state element: two states whose registers read the same have the same elements. -/
def Obligations.NoHiddenState : Prop :=
  ∀ s t : State, (∀ idx : RegIdx, hostRead idx s = hostRead idx t) →
    s.SameBitPacker t ∧ s.SameChecksum t ∧ s.SameError t

/-! ## Frames, independence and the invariant -/

/-- The frame of every command (R20, R24 to R28, R32, R200): which commands may change which element, and that no
command changes what is around the block. -/
def Obligations.OnlyNamedCommandsWrite : Prop :=
  ∀ (i : Instr) (s t : State), exec i s = .next t → i ≠ .softReset →
    s.SamePort t
    ∧ (i.isBitPacker = false → s.SameBitPacker t)
    ∧ (i.isChecksum = false → s.SameChecksum t)
    ∧ (t.pmC ≠ s.pmC → i = .pmInit ∨ (∃ d, i = .pmStep d) ∨ ∃ c, i = .pmStepChar c)
    ∧ (t.pmRes ≠ s.pmRes → i = .pmFinal)
    ∧ (t.bpMode ≠ s.bpMode → i = .bpStartPack ∨ i = .bpStartUnpack ∨ i = .bpFlush)
    ∧ (¬ s.SameError t → s.err = false ∧ t.err = true ∧ s.SameBitPacker t ∧ s.SameChecksum t
        ∧ ((∃ b, i = .bpPackByte b) ∨ (∃ v, i = .bpUnpackSym v) ∨ ∃ d, i = .pmStep d))

/-- R200: a BitPacker command and a ChecksumEngine command that both complete without an error give the same state in
either order. -/
def Obligations.UnitsCommute : Prop :=
  ∀ (i j : Instr) (s t u : State), i.isBitPacker = true → j.isChecksum = true →
    exec i s = .next t → t.err = false → exec j s = .next u → u.err = false →
    ∃ v, exec j t = .next v ∧ exec i u = .next v ∧ t.SameBitPacker v ∧ u.SameChecksum v

/-- R200 and R112, what each unit reads: a command of one unit does the same to its own elements and to `ERR` whatever
the other unit holds. -/
def Obligations.UnitsDoNotReadEachOther : Prop :=
  ∀ (i : Instr) (s s' t : State), s.SameError s' → exec i s = .next t →
    (i.isBitPacker = true → s.SameBitPacker s' → ∃ t', exec i s' = .next t' ∧ t.SameBitPacker t' ∧ t.SameError t')
    ∧ (i.isChecksum = true → s.SameChecksum s' → ∃ t', exec i s' = .next t' ∧ t.SameChecksum t' ∧ t.SameError t')

/-- R179: every command keeps the invariants of R22 to R24, R27 and R28, from every state that has them, so none
produces a value the rule names; the values 3 of `BP_MODE` and `BP_OCNT` and 4 to 7 of `ERR_CODE` are in no state. -/
def Obligations.CommandsKeepElementRelations : Prop :=
  (∀ (i : Instr) (s t : State), s.elementsOk → exec i s = .next t → t.elementsOk)
  ∧ ∀ s : State, s.bpMode.toBits.toNat ≤ 2 ∧ s.bpOcnt.val ≤ 2 ∧ s.errCode.toBits.toNat ≤ 3

/-- Every step, whatever the event, keeps the machine's invariant (R22 to R24, R27, R28, R179; before the first reset
nothing is claimed, R191). For a power loss this rests on the model's choice (DESIGN CHOICE, log entry 5) that the block
is not ready after it, and for a step with no event on the model's reading of R50 and R184 (DEDUCED, log entry 7). -/
def Obligations.StepKeepsElementRelations : Prop :=
  ∀ s t : State, s.Inv → step s = .next t → t.Inv

/-- The relations of the elements hold at reset, and after each reset event of any state (R190). -/
def Obligations.ResetHasElementRelations : Prop :=
  State.reset.elementsOk ∧ ∀ s : State, (resetElements s).elementsOk

/-- A block that has been reset never stops: from every state with the invariant, whatever event is next, and with no
event, the step answers a next state. A host access (R35, R55, R175) and the reset input (R190) are the spec's. That a
power loss is answered by a next state is the model's choice (DESIGN CHOICE, log entry 5; R184 does not specify what it
does), and that a step with no event answers one is the model's reading (DEDUCED, log entry 7, from R50 and R184). -/
def Obligations.ReadyBlockNeverStops : Prop :=
  ∀ s : State, s.Inv → s.ready = true → ∃ t, step s = .next t

/-- The values of R179 are unreachable: from reset, after any number of steps over any accesses of the host and any
assertions of the reset input (R190), the block has not stopped and the relations of its elements hold. No power loss is
among the events; the steps after the last event are the model's reading (DEDUCED, log entry 7, from R50 and R184). -/
def Obligations.UnreachableValuesStayUnreached : Prop :=
  ∀ (accesses : List Event) (n : Nat), .powerLoss ∉ accesses →
    ∃ t, core.run n { State.reset with pending := accesses } = .next t ∧ t.ready = true ∧ t.elementsOk

/-- The model's choice (DEDUCED, log entry 6): R179 says the behaviour in the states it calls unreachable is not
specified, and U3 that a model refuses them; this model refuses, by name, the commands that read the live bits there. -/
def Obligations.UnreachableStateRefused : Prop :=
  ∀ s : State, s.err = false → ¬ s.liveOk →
    (s.bpMode = .pack → ∀ b, exec (.bpPackByte b) s = .refused .unreachableState)
    ∧ (s.bpMode = .unpack → ∀ v : Byte, v.toNat ≤ 31 → exec (.bpUnpackSym v) s = .refused .unreachableState)
    ∧ (s.bpMode = .pack → exec .bpFlush s = .refused .unreachableState)
end

