-- ==== Sys2Proof/Laws/State.lean ====
section
/-! SUPPORT. One lemma per field per state update, true by rfl, so that no later proof unfolds a record update. -/

namespace Sys2Proof.Machine

variable (s : State)

/-! ### State.emit -/

@[simp] theorem State.emit_bpMode (a b : Byte) (n : Fin 3) :
    (s.emit a b n).bpMode = s.bpMode := rfl
@[simp] theorem State.emit_bpAcc (a b : Byte) (n : Fin 3) :
    (s.emit a b n).bpAcc = s.bpAcc := rfl
@[simp] theorem State.emit_bpCnt (a b : Byte) (n : Fin 3) :
    (s.emit a b n).bpCnt = s.bpCnt := rfl
@[simp] theorem State.emit_bpOut0 (a b : Byte) (n : Fin 3) :
    (s.emit a b n).bpOut0 = a := rfl
@[simp] theorem State.emit_bpOut1 (a b : Byte) (n : Fin 3) :
    (s.emit a b n).bpOut1 = b := rfl
@[simp] theorem State.emit_bpOcnt (a b : Byte) (n : Fin 3) :
    (s.emit a b n).bpOcnt = n := rfl
@[simp] theorem State.emit_pmC (a b : Byte) (n : Fin 3) :
    (s.emit a b n).pmC = s.pmC := rfl
@[simp] theorem State.emit_pmRes (a b : Byte) (n : Fin 3) :
    (s.emit a b n).pmRes = s.pmRes := rfl
@[simp] theorem State.emit_pmRdy (a b : Byte) (n : Fin 3) :
    (s.emit a b n).pmRdy = s.pmRdy := rfl
@[simp] theorem State.emit_err (a b : Byte) (n : Fin 3) :
    (s.emit a b n).err = s.err := rfl
@[simp] theorem State.emit_errCode (a b : Byte) (n : Fin 3) :
    (s.emit a b n).errCode = s.errCode := rfl
@[simp] theorem State.emit_ready (a b : Byte) (n : Fin 3) :
    (s.emit a b n).ready = s.ready := rfl
@[simp] theorem State.emit_pending (a b : Byte) (n : Fin 3) :
    (s.emit a b n).pending = s.pending := rfl
@[simp] theorem State.emit_replies (a b : Byte) (n : Fin 3) :
    (s.emit a b n).replies = s.replies := rfl
@[simp] theorem State.emit_freeCount (a b : Byte) (n : Fin 3) :
    (s.emit a b n).freeCount = s.freeCount := rfl

/-! ### State.keepLive -/

@[simp] theorem State.keepLive_bpMode (t : BitVec 12) (k : Nat) :
    (s.keepLive t k).bpMode = s.bpMode := rfl
@[simp] theorem State.keepLive_bpAcc (t : BitVec 12) (k : Nat) :
    (s.keepLive t k).bpAcc = (t &&& BitVec.ofNat 12 (2 ^ k - 1)).setWidth 7 := rfl
@[simp] theorem State.keepLive_bpCnt (t : BitVec 12) (k : Nat) :
    (s.keepLive t k).bpCnt = BitVec.ofNat 3 k := rfl
@[simp] theorem State.keepLive_bpOut0 (t : BitVec 12) (k : Nat) :
    (s.keepLive t k).bpOut0 = s.bpOut0 := rfl
@[simp] theorem State.keepLive_bpOut1 (t : BitVec 12) (k : Nat) :
    (s.keepLive t k).bpOut1 = s.bpOut1 := rfl
@[simp] theorem State.keepLive_bpOcnt (t : BitVec 12) (k : Nat) :
    (s.keepLive t k).bpOcnt = s.bpOcnt := rfl
@[simp] theorem State.keepLive_pmC (t : BitVec 12) (k : Nat) :
    (s.keepLive t k).pmC = s.pmC := rfl
@[simp] theorem State.keepLive_pmRes (t : BitVec 12) (k : Nat) :
    (s.keepLive t k).pmRes = s.pmRes := rfl
@[simp] theorem State.keepLive_pmRdy (t : BitVec 12) (k : Nat) :
    (s.keepLive t k).pmRdy = s.pmRdy := rfl
@[simp] theorem State.keepLive_err (t : BitVec 12) (k : Nat) :
    (s.keepLive t k).err = s.err := rfl
@[simp] theorem State.keepLive_errCode (t : BitVec 12) (k : Nat) :
    (s.keepLive t k).errCode = s.errCode := rfl
@[simp] theorem State.keepLive_ready (t : BitVec 12) (k : Nat) :
    (s.keepLive t k).ready = s.ready := rfl
@[simp] theorem State.keepLive_pending (t : BitVec 12) (k : Nat) :
    (s.keepLive t k).pending = s.pending := rfl
@[simp] theorem State.keepLive_replies (t : BitVec 12) (k : Nat) :
    (s.keepLive t k).replies = s.replies := rfl
@[simp] theorem State.keepLive_freeCount (t : BitVec 12) (k : Nat) :
    (s.keepLive t k).freeCount = s.freeCount := rfl

/-! ### State.openStream -/

@[simp] theorem State.openStream_bpMode (m : BpMode) :
    (s.openStream m).bpMode = m := rfl
@[simp] theorem State.openStream_bpAcc (m : BpMode) :
    (s.openStream m).bpAcc = 0#7 := rfl
@[simp] theorem State.openStream_bpCnt (m : BpMode) :
    (s.openStream m).bpCnt = 0#3 := rfl
@[simp] theorem State.openStream_bpOut0 (m : BpMode) :
    (s.openStream m).bpOut0 = s.bpOut0 := rfl
@[simp] theorem State.openStream_bpOut1 (m : BpMode) :
    (s.openStream m).bpOut1 = s.bpOut1 := rfl
@[simp] theorem State.openStream_bpOcnt (m : BpMode) :
    (s.openStream m).bpOcnt = s.bpOcnt := rfl
@[simp] theorem State.openStream_pmC (m : BpMode) :
    (s.openStream m).pmC = s.pmC := rfl
@[simp] theorem State.openStream_pmRes (m : BpMode) :
    (s.openStream m).pmRes = s.pmRes := rfl
@[simp] theorem State.openStream_pmRdy (m : BpMode) :
    (s.openStream m).pmRdy = s.pmRdy := rfl
@[simp] theorem State.openStream_err (m : BpMode) :
    (s.openStream m).err = s.err := rfl
@[simp] theorem State.openStream_errCode (m : BpMode) :
    (s.openStream m).errCode = s.errCode := rfl
@[simp] theorem State.openStream_ready (m : BpMode) :
    (s.openStream m).ready = s.ready := rfl
@[simp] theorem State.openStream_pending (m : BpMode) :
    (s.openStream m).pending = s.pending := rfl
@[simp] theorem State.openStream_replies (m : BpMode) :
    (s.openStream m).replies = s.replies := rfl
@[simp] theorem State.openStream_freeCount (m : BpMode) :
    (s.openStream m).freeCount = s.freeCount := rfl

/-! ### State.pmAdvance -/

@[simp] theorem State.pmAdvance_bpMode (d : Sym) :
    (s.pmAdvance d).bpMode = s.bpMode := rfl
@[simp] theorem State.pmAdvance_bpAcc (d : Sym) :
    (s.pmAdvance d).bpAcc = s.bpAcc := rfl
@[simp] theorem State.pmAdvance_bpCnt (d : Sym) :
    (s.pmAdvance d).bpCnt = s.bpCnt := rfl
@[simp] theorem State.pmAdvance_bpOut0 (d : Sym) :
    (s.pmAdvance d).bpOut0 = s.bpOut0 := rfl
@[simp] theorem State.pmAdvance_bpOut1 (d : Sym) :
    (s.pmAdvance d).bpOut1 = s.bpOut1 := rfl
@[simp] theorem State.pmAdvance_bpOcnt (d : Sym) :
    (s.pmAdvance d).bpOcnt = s.bpOcnt := rfl
@[simp] theorem State.pmAdvance_pmC (d : Sym) :
    (s.pmAdvance d).pmC = pmStep s.pmC d := rfl
@[simp] theorem State.pmAdvance_pmRes (d : Sym) :
    (s.pmAdvance d).pmRes = s.pmRes := rfl
@[simp] theorem State.pmAdvance_pmRdy (d : Sym) :
    (s.pmAdvance d).pmRdy = false := rfl
@[simp] theorem State.pmAdvance_err (d : Sym) :
    (s.pmAdvance d).err = s.err := rfl
@[simp] theorem State.pmAdvance_errCode (d : Sym) :
    (s.pmAdvance d).errCode = s.errCode := rfl
@[simp] theorem State.pmAdvance_ready (d : Sym) :
    (s.pmAdvance d).ready = s.ready := rfl
@[simp] theorem State.pmAdvance_pending (d : Sym) :
    (s.pmAdvance d).pending = s.pending := rfl
@[simp] theorem State.pmAdvance_replies (d : Sym) :
    (s.pmAdvance d).replies = s.replies := rfl
@[simp] theorem State.pmAdvance_freeCount (d : Sym) :
    (s.pmAdvance d).freeCount = s.freeCount := rfl

/-! ### resetElements -/

@[simp] theorem resetElements_bpMode :
    (resetElements s).bpMode = .idle := rfl
@[simp] theorem resetElements_bpAcc :
    (resetElements s).bpAcc = 0#7 := rfl
@[simp] theorem resetElements_bpCnt :
    (resetElements s).bpCnt = 0#3 := rfl
@[simp] theorem resetElements_bpOut0 :
    (resetElements s).bpOut0 = 0#8 := rfl
@[simp] theorem resetElements_bpOut1 :
    (resetElements s).bpOut1 = 0#8 := rfl
@[simp] theorem resetElements_bpOcnt :
    (resetElements s).bpOcnt = 0 := rfl
@[simp] theorem resetElements_pmC :
    (resetElements s).pmC = 1#40 := rfl
@[simp] theorem resetElements_pmRes :
    (resetElements s).pmRes = 0#40 := rfl
@[simp] theorem resetElements_pmRdy :
    (resetElements s).pmRdy = false := rfl
@[simp] theorem resetElements_err :
    (resetElements s).err = false := rfl
@[simp] theorem resetElements_errCode :
    (resetElements s).errCode = .none := rfl
@[simp] theorem resetElements_ready :
    (resetElements s).ready = true := rfl
@[simp] theorem resetElements_pending :
    (resetElements s).pending = s.pending := rfl
@[simp] theorem resetElements_replies :
    (resetElements s).replies = s.replies := rfl
@[simp] theorem resetElements_freeCount :
    (resetElements s).freeCount = s.freeCount := rfl

/-! ### powerUp: the state elements are free values, the rest is as said here -/

@[simp] theorem powerUp_ready :
    (powerUp s).ready = false := rfl
@[simp] theorem powerUp_pending :
    (powerUp s).pending = s.pending := rfl
@[simp] theorem powerUp_replies :
    (powerUp s).replies = s.replies := rfl
@[simp] theorem powerUp_freeCount :
    (powerUp s).freeCount = s.freeCount + 11 := rfl

/-! ### State.withFetchWord -/

@[simp] theorem State.withFetchWord_bpMode (nbits w : Nat) :
    (s.withFetchWord nbits w).bpMode = s.bpMode := rfl
@[simp] theorem State.withFetchWord_bpAcc (nbits w : Nat) :
    (s.withFetchWord nbits w).bpAcc = s.bpAcc := rfl
@[simp] theorem State.withFetchWord_bpCnt (nbits w : Nat) :
    (s.withFetchWord nbits w).bpCnt = s.bpCnt := rfl
@[simp] theorem State.withFetchWord_bpOut0 (nbits w : Nat) :
    (s.withFetchWord nbits w).bpOut0 = s.bpOut0 := rfl
@[simp] theorem State.withFetchWord_bpOut1 (nbits w : Nat) :
    (s.withFetchWord nbits w).bpOut1 = s.bpOut1 := rfl
@[simp] theorem State.withFetchWord_bpOcnt (nbits w : Nat) :
    (s.withFetchWord nbits w).bpOcnt = s.bpOcnt := rfl
@[simp] theorem State.withFetchWord_pmC (nbits w : Nat) :
    (s.withFetchWord nbits w).pmC = s.pmC := rfl
@[simp] theorem State.withFetchWord_pmRes (nbits w : Nat) :
    (s.withFetchWord nbits w).pmRes = s.pmRes := rfl
@[simp] theorem State.withFetchWord_pmRdy (nbits w : Nat) :
    (s.withFetchWord nbits w).pmRdy = s.pmRdy := rfl
@[simp] theorem State.withFetchWord_err (nbits w : Nat) :
    (s.withFetchWord nbits w).err = s.err := rfl
@[simp] theorem State.withFetchWord_errCode (nbits w : Nat) :
    (s.withFetchWord nbits w).errCode = s.errCode := rfl
@[simp] theorem State.withFetchWord_ready (nbits w : Nat) :
    (s.withFetchWord nbits w).ready = true := rfl
@[simp] theorem State.withFetchWord_pending (nbits w : Nat) :
    (s.withFetchWord nbits w).pending = .write 0#4 (BitVec.ofNat 32 (w % 2 ^ nbits)) :: s.pending := rfl
@[simp] theorem State.withFetchWord_replies (nbits w : Nat) :
    (s.withFetchWord nbits w).replies = s.replies := rfl
@[simp] theorem State.withFetchWord_freeCount (nbits w : Nat) :
    (s.withFetchWord nbits w).freeCount = s.freeCount := rfl

end Sys2Proof.Machine
end

