-- ==== Sys2Proof/Laws/Ops.lean ====
section
/-! SUPPORT. What each shared operation answers, once: later proofs cite these and do not unfold the operation. -/

namespace Sys2Proof.Machine

/-! ### Raising an error and the two guards -/

@[simp] theorem raiseError_eq (code : ErrCode) (s : State) :
    raiseError code s = .next { s with err := true, errCode := code } := rfl

theorem unlessErr_of_err {s : State} (h : s.err = true) (k : Result) : unlessErr s k = .next s := by
  simp [unlessErr, h]

theorem unlessErr_of_ok {s : State} (h : s.err = false) (k : Result) : unlessErr s k = k := by
  simp [unlessErr, h]

/-- The gate answers a next state in two ways: it ignored the command, or the command answered. -/
theorem unlessErr_next {s t : State} {k : Result} (h : unlessErr s k = .next t) :
    (s.err = true ∧ t = s) ∨ (s.err = false ∧ k = .next t) := by
  cases he : s.err with
  | true => rw [unlessErr_of_err he] at h; exact .inl ⟨rfl, (Host.Outcome.next.inj h).symm⟩
  | false => rw [unlessErr_of_ok he] at h; exact .inr ⟨rfl, h⟩

theorem withLiveBits_of_ok {s : State} (h : s.liveOk) (k : Result) : withLiveBits s k = k := if_pos h

theorem withLiveBits_of_not_ok {s : State} (h : ¬ s.liveOk) (k : Result) :
    withLiveBits s k = .refused .unreachableState := if_neg h

/-- The guard on the live bits answers a next state only when they are of the specified form. -/
theorem withLiveBits_next {s t : State} {k : Result} (h : withLiveBits s k = .next t) :
    s.liveOk ∧ k = .next t := by
  by_cases hl : s.liveOk
  · exact ⟨hl, by rwa [withLiveBits_of_ok hl] at h⟩
  · rw [withLiveBits_of_not_ok hl] at h; cases h

/-! ### Operands -/

/-- The range check of R71 as a bound: `OPND[7:5] = 0b000` says that the operand is at most 31. -/
theorem highBits_eq_zero_iff (opnd : Byte) : opnd.extractLsb' 5 3 = 0#3 ↔ opnd.toNat ≤ 31 := by
  have h := opnd.isLt
  simp only [BitVec.toNat_eq, BitVec.extractLsb'_toNat, Nat.shiftRight_eq_div_pow, BitVec.toNat_ofNat]
  omega

theorem symbolOperand_of_le {opnd : Byte} (h : opnd.toNat ≤ 31) :
    symbolOperand opnd = some (opnd.extractLsb' 0 5) := if_pos ((highBits_eq_zero_iff opnd).2 h)

theorem symbolOperand_of_gt {opnd : Byte} (h : 31 < opnd.toNat) : symbolOperand opnd = none :=
  if_neg fun hs => absurd ((highBits_eq_zero_iff opnd).1 hs) (by omega)

/-- The operand check and the assembler's check agree. -/
theorem symbolOperand_isSome (opnd : Byte) : (symbolOperand opnd).isSome = isSymbolOperand opnd := by
  by_cases h : opnd.toNat ≤ 31
  · simp [symbolOperand_of_le h, isSymbolOperand, h]
  · simp [symbolOperand_of_gt (Nat.lt_of_not_le h), isSymbolOperand, h]

/-! ### The live bits -/

/-- What `keepLive` keeps, as numbers: the low `k` bits of the word and their count. -/
theorem State.keepLive_toNat (s : State) (t : BitVec 12) {k : Nat} (hk : k ≤ 7) :
    (s.keepLive t k).bpAcc.toNat = t.toNat % 2 ^ k ∧ (s.keepLive t k).bpCnt.toNat = k := by
  have hpow : 2 ^ k ≤ 2 ^ 7 := Nat.pow_le_pow_right (by decide) hk
  have hpos : 0 < 2 ^ k := Nat.pow_pos (by decide)
  constructor
  · have hlt : t.toNat % 2 ^ k < 2 ^ k := Nat.mod_lt _ hpos
    rw [State.keepLive_bpAcc, BitVec.toNat_setWidth, BitVec.toNat_and, BitVec.toNat_ofNat,
      Nat.mod_eq_of_lt (a := 2 ^ k - 1) (by omega), Nat.and_two_pow_sub_one_eq_mod]
    exact Nat.mod_eq_of_lt (by omega)
  · rw [State.keepLive_bpCnt, BitVec.toNat_ofNat]
    exact Nat.mod_eq_of_lt (by omega)

/-- The transient word of a push as a number: the operand fills the low bits the shift has emptied (R100). -/
theorem pushWord_toNat {acc : BitVec 7} {w : Nat} {v : BitVec 12} (hv : v.toNat < 2 ^ w)
    (ha : acc.toNat * 2 ^ w < 2 ^ 12) : (pushWord acc w v).toNat = acc.toNat * 2 ^ w + v.toNat := by
  have hw : acc.toNat % 2 ^ 12 = acc.toNat := Nat.mod_eq_of_lt (by have := acc.isLt; omega)
  rw [pushWord, BitVec.toNat_or, BitVec.toNat_shiftLeft, BitVec.toNat_setWidth, hw, Nat.shiftLeft_eq,
    Nat.mod_eq_of_lt ha, Nat.mul_comm, ← Nat.two_pow_add_eq_or_of_lt hv]

/-! ### The port -/

theorem executeWord_of_decode {w : Word} {i : Instr} (h : decode w = .ok i) (s : State) :
    executeWord w s = exec i s := by
  simp [executeWord, h]

theorem executeWord_of_illegal {w : Word} {e : DecodeError} (h : decode w = .error e) (s : State) :
    executeWord w s = unlessErr s (raiseError .illegalOpcode s) := by
  simp [executeWord, h]

theorem step_of_idle {s : State} (h : s.pending = []) : step s = .next s := by
  simp [step, portStep, h]

theorem step_of_pending {s : State} {e : Event} {rest : List Event} (h : s.pending = e :: rest) :
    step s = performEvent e { s with pending := rest } := by
  simp [step, portStep, h]

theorem performEvent_write_cmd {s : State} (h : s.ready = true) (w : Word) :
    performEvent (.write 0x0#4 w) s = executeWord w s := by
  simp [performEvent, h, hostWrite]

theorem performEvent_write_other {s : State} (h : s.ready = true) {idx : RegIdx} (hi : idx ≠ 0x0#4) (v : Word) :
    performEvent (.write idx v) s = .next s := by
  simp [performEvent, h, hostWrite, hi]

theorem performEvent_read {s : State} (h : s.ready = true) (idx : RegIdx) :
    performEvent (.read idx) s = .next { s with replies := s.replies ++ [hostRead idx s] } := by
  simp [performEvent, h]

/-- The word that `withFetchWord` places is what the next step executes. -/
theorem step_withFetchWord (s : State) (nbits w : Nat) :
    step (s.withFetchWord nbits w) = executeWord (BitVec.ofNat 32 (w % 2 ^ nbits)) { s with ready := true } := by
  rw [step_of_pending (State.withFetchWord_pending s nbits w)]
  exact performEvent_write_cmd rfl _

end Sys2Proof.Machine
end

