-- ==== Sys2Proof/Laws/Exec.lean ====
section
/-! SUPPORT. What every command does alike: the error gate, and what the host collects after a command. -/

namespace Sys2Proof.Machine

/-- In the error state every command but `SOFT_RESET` is ignored (R172), at the level of one command. -/
theorem exec_of_err {i : Instr} {s : State} (h : s.err = true) (hi : i ≠ .softReset) : exec i s = .next s := by
  cases i with
  | softReset => exact absurd rfl hi
  | nop => rfl
  | _ => exact unlessErr_of_err h _

theorem exec_softReset (s : State) : exec .softReset s = .next (resetElements s) := rfl

theorem runCommands_cons {i : Instr} {rest : List Instr} {s t : State} (h : exec i s = .next t) :
    runCommands (i :: rest) s = runCommands rest t := by
  simp [runCommands, h]

theorem runCollect_cons {i : Instr} {rest : List Instr} {s t u : State} {values : List Byte}
    (h : exec i s = .next t) (hr : runCollect rest t = some (u, values)) :
    runCollect (i :: rest) s = some (u, t.emitted ++ values) := by
  simp [runCollect, h, hr]

@[simp] theorem State.emitted_emit_zero (s : State) (a b : Byte) : (s.emit a b 0).emitted = [] := rfl
@[simp] theorem State.emitted_emit_one (s : State) (a b : Byte) : (s.emit a b 1).emitted = [a] := rfl
@[simp] theorem State.emitted_emit_two (s : State) (a b : Byte) : (s.emit a b 2).emitted = [a, b] := rfl
@[simp] theorem State.emitted_keepLive (s : State) (t : BitVec 12) (k : Nat) :
    (s.keepLive t k).emitted = s.emitted := rfl
@[simp] theorem State.emitted_openStream (s : State) (m : BpMode) : (s.openStream m).emitted = s.emitted := rfl

end Sys2Proof.Machine
end

