-- ==== Sys2Proof/Laws/PerInstr.lean ====
section
/-! SUPPORT. Statements made per instruction: every command's opcode is one of the opcode map (30_encoding.md R72). -/

namespace Sys2Proof.Laws.OpcodeListed

/-- The opcode of the command stands in the list of R72. -/
def Statement (i : Instr) : Prop := i.opc.toNat ∈ Machine.mappedOpcodes

theorem nop : Statement .nop := by simp [Statement, Instr.opc]
theorem softReset : Statement .softReset := by simp [Statement, Instr.opc]
theorem bpStartPack : Statement .bpStartPack := by simp [Statement, Instr.opc]
theorem bpStartUnpack : Statement .bpStartUnpack := by simp [Statement, Instr.opc]
theorem bpPackByte (opnd : Byte) : Statement (.bpPackByte opnd) := by simp [Statement, Instr.opc]
theorem bpUnpackSym (opnd : Byte) : Statement (.bpUnpackSym opnd) := by simp [Statement, Instr.opc]
theorem bpFlush : Statement .bpFlush := by simp [Statement, Instr.opc]
theorem pmInit : Statement .pmInit := by simp [Statement, Instr.opc]
theorem pmStep (opnd : Byte) : Statement (.pmStep opnd) := by simp [Statement, Instr.opc]
theorem pmStepChar (opnd : Byte) : Statement (.pmStepChar opnd) := by simp [Statement, Instr.opc]
theorem pmFinal : Statement .pmFinal := by simp [Statement, Instr.opc]

end Sys2Proof.Laws.OpcodeListed
end

