-- ==== Sys2Proof/Tests/Slice0.lean ====
section
/-! SUPPORT. The model's own tests: decoding of words written out from the spec's encodings, one-step tests with the
values of 95_test_vectors.md, and for each statement with hypotheses a state and operands that meet them. -/

namespace Sys2Proof.Tests

open Machine

/-- The next state an outcome holds. -/
def nextOf : Result → Option State
  | .next t => some t
  | .fault _ => none
  | .refused _ => none

/-- The `STATUS` word after a command. -/
def statusAfter (i : Instr) (s : State) : Option Word := (nextOf (exec i s)).map (hostRead 0x1#4)

/-- A state in pack mode with the given live bits. -/
def packing (acc : BitVec 7) (cnt : BitVec 3) : State :=
  { State.reset with bpMode := .pack, bpAcc := acc, bpCnt := cnt }

/-- A state in unpack mode with the given live bits. -/
def unpacking (acc : BitVec 7) (cnt : BitVec 3) : State :=
  { State.reset with bpMode := .unpack, bpAcc := acc, bpCnt := cnt }

/-- A state with the given polymod accumulator. -/
def stepping (c : PmWord) : State := { State.reset with pmC := c }

/-- A state in the error state. -/
def failed (code : ErrCode) : State := { State.reset with err := true, errCode := code }

/-- A state before the first reset. -/
def unready : State := { State.reset with ready := false }

/-- The state with these events issued. -/
def issued (events : List Event) (s : State) : State := { s with pending := events }

/-! ### Well-formedness: each check refuses an ill-formed command (30_encoding.md R75) -/

theorem test_illFormed_unpackSym : (Instr.bpUnpackSym 0x20#8).wellFormed = false := by decide
theorem test_illFormed_pmStep : (Instr.pmStep 0x20#8).wellFormed = false := by decide
theorem test_wellFormed_boundary :
    (Instr.bpUnpackSym 0x1F#8).wellFormed = true ∧ (Instr.pmStep 0x1F#8).wellFormed = true := by decide

/-! ### Decoding: one word per row of R72, with `RSV` and unused operand bits set in some (R70, R71, V-F-ENC) -/

theorem test_decode_nop : decode 0b00000000000000000000000011111111#32 = .ok .nop := by decide
theorem test_decode_softReset : decode 0b00000000000000000000000100000000#32 = .ok .softReset := by decide
theorem test_decode_bpStartPack : decode 0b00000000000000000001000010101011#32 = .ok .bpStartPack := by decide
theorem test_decode_bpStartUnpack : decode 0b00000000000000000001000100000000#32 = .ok .bpStartUnpack := by decide
theorem test_decode_bpPackByte : decode 0b00000000000000000001001010000001#32 = .ok (.bpPackByte 0x81#8) := by decide
theorem test_decode_bpUnpackSym : decode 0b00000000000000000001001100010010#32 = .ok (.bpUnpackSym 0x12#8) := by decide
theorem test_decode_bpFlush : decode 0b00000000000000010001010000000000#32 = .ok .bpFlush := by decide
theorem test_decode_pmInit : decode 0b10000000000000000010000000000000#32 = .ok .pmInit := by decide
theorem test_decode_pmStep : decode 0b00000000000000000010000101000000#32 = .ok (.pmStep 0x40#8) := by decide
theorem test_decode_pmStepChar : decode 0b00000000000000000010001001100001#32 = .ok (.pmStepChar 0x61#8) := by decide
theorem test_decode_pmFinal : decode 0b11111111111111110010001100000000#32 = .ok .pmFinal := by decide
theorem test_decode_illegal :
    decode 0x00000700#32 = .error (.illegalOpcode 0x07#8) ∧ decode 0x0000FF00#32 = .error (.illegalOpcode 0xFF#8) := by
  decide

/-- The examples of R75. -/
theorem test_encode_examples :
    encode (.bpPackByte 0xFF#8) = 0x000012FF#32 ∧ encode (.pmStepChar 0x61#8) = 0x00002261#32
      ∧ encode .pmFinal = 0x00002300#32 := by decide

theorem test_tableWord : decodeTableWord 32 0x00002261 = some (.pmStepChar 0x61#8) := by decide

/-! ### One step per command, with values of 95_test_vectors.md -/

/-- P6 step 1. -/
theorem test_nop_status : statusAfter .nop State.reset = some 0x00000000#32 := by decide
/-- V-F-ERR: the error state is left for the reset state. -/
theorem test_softReset_from_error : nextOf (exec .softReset (failed .modeConflict)) = some State.reset := by decide
/-- P1 step 1. -/
theorem test_startPack_status : statusAfter .bpStartPack State.reset = some 0x00000010#32 := by decide
/-- V-F-BP, restart: the live bits are dropped. -/
theorem test_startPack_restart : nextOf (exec .bpStartPack (packing 0x07#7 3#3)) = some (packing 0#7 0#3) := by decide
/-- P2 step 1. -/
theorem test_startUnpack_status : statusAfter .bpStartUnpack State.reset = some 0x00000020#32 := by decide
/-- P1 step 2. -/
theorem test_packByte_first : nextOf (exec (.bpPackByte 0xFF#8) (packing 0#7 0#3))
    = some { packing 0x07#7 3#3 with bpOut0 := 0x1F#8, bpOcnt := 1 } := by decide
/-- P1 step 3. -/
theorem test_packByte_second : nextOf (exec (.bpPackByte 0x01#8) (packing 0x07#7 3#3))
    = some { packing 0x01#7 1#3 with bpOut0 := 0x1C#8, bpOcnt := 2 } := by decide
/-- V-F-BP: the third symbol of 31 leaves seven live bits and emits nothing. -/
theorem test_unpackSym_third : nextOf (exec (.bpUnpackSym 0x1F#8) (unpacking 0x03#7 2#3))
    = some (unpacking 0x7F#7 7#3) := by decide
/-- V-F-BP: the fourth symbol of 31 emits a byte. -/
theorem test_unpackSym_fourth : nextOf (exec (.bpUnpackSym 0x1F#8) (unpacking 0x7F#7 7#3))
    = some { unpacking 0x0F#7 4#3 with bpOut0 := 0xFF#8, bpOcnt := 1 } := by decide
/-- P1 step 4. -/
theorem test_flush_pads : nextOf (exec .bpFlush (packing 0x01#7 1#3))
    = some { State.reset with bpOut0 := 0x10#8, bpOcnt := 1 } := by decide
/-- V-F-BP: five live bits of an unpack stream are discarded. -/
theorem test_flush_discards : nextOf (exec .bpFlush (unpacking 0x1F#7 5#3)) = some State.reset := by decide
/-- P3 step 1, from another accumulator. -/
theorem test_pmInit : nextOf (exec .pmInit (stepping 0x41F#40)) = some State.reset := by decide
/-- V-F-PM: no generator. -/
theorem test_pmStep_plain : nextOf (exec (.pmStep 0x1F#8) (stepping 1#40)) = some (stepping 0x3F#40) := by decide
/-- V-F-PM: all five generators. -/
theorem test_pmStep_all : nextOf (exec (.pmStep 0x1F#8) (stepping 0xFFFFFFFFFF#40)) = some (stepping 0x5DE5995D60#40) := by
  decide
/-- P6 step 5: the byte is masked. -/
theorem test_pmStepChar_masks : nextOf (exec (.pmStepChar 0xFF#8) (stepping 0x20#40)) = some (stepping 0x41F#40) := by decide
/-- P3 step 2. -/
theorem test_pmStepChar_letter : nextOf (exec (.pmStepChar 0x61#8) (stepping 1#40)) = some (stepping 0x21#40) := by decide
/-- P3 step 12. -/
theorem test_pmFinal : nextOf (exec .pmFinal (stepping 0x89A2D370AF#40))
    = some { stepping 0x89A2D370AF#40 with pmRes := 0x89A2D370AE#40, pmRdy := true } := by decide
/-- P4 step 12. -/
theorem test_pmFinal_zero : statusAfter .pmFinal State.reset = some 0x00003000#32 := by decide

/-! ### Errors (V-F-ERR) -/

theorem test_error_modeConflict : statusAfter (.bpPackByte 0x00#8) State.reset = some 0x00000005#32 := by decide
theorem test_error_priority : statusAfter (.bpUnpackSym 0xFF#8) (packing 0#7 0#3) = some 0x00000015#32 := by decide
theorem test_error_operandRange : statusAfter (.bpUnpackSym 0xFF#8) (unpacking 0#7 0#3) = some 0x00000027#32 := by decide
theorem test_error_pmStep : statusAfter (.pmStep 0x40#8) State.reset = some 0x00000007#32 := by decide
theorem test_error_illegal :
    (nextOf (executeWord 0x00000700#32 State.reset)).map (hostRead 0x1#4) = some 0x00000003#32 := by decide

/-! ### Registers, the port and the generators -/

/-- P3: the checksum registers. -/
theorem test_symRegisters :
    let s := { State.reset with pmRes := 0x89A2D370AE#40 }
    hostRead 0x8#4 s = 0x0D110611#32 ∧ hostRead 0x9#4 s = 0x0E051C06#32 := by decide

/-- The word placed by `withFetchWord` runs as the first command after reset. -/
theorem test_withFetchWord : nextOf (step (State.reset.withFetchWord 32 0x00001000)) = some (packing 0#7 0#3) := by decide

/-- V-L1-3, the evidence for the generators: the source's example address checks to 0. -/
theorem test_generators_example_address :
    polymod (prefixSymbols [0x62#8, 0x69#8, 0x74#8, 0x63#8, 0x6F#8, 0x69#8, 0x6E#8, 0x63#8, 0x61#8, 0x73#8, 0x68#8]
      ++ [0, 1, 27, 10, 0, 16, 2, 19, 23, 22, 16, 10, 17, 2, 30, 26, 10, 5, 27, 27, 16, 26, 16, 21, 24, 14, 25, 9, 30,
        21, 12, 24, 14, 12]
      ++ [4, 10, 10, 8, 13, 6, 26, 29]) = 0#40 := by decide +kernel

/-- V-F-BP: `pack5` of 12 34 56, and of FF 01 with its unpacking (P1, P2). -/
theorem test_pack5 :
    pack5 [0x12#8, 0x34#8, 0x56#8] = [2, 8, 26, 5, 12] ∧ pack5 [0xFF#8, 0x01#8] = [31, 28, 0, 16]
      ∧ unpack5 [31, 28, 0, 16] = [0xFF#8, 0x01#8] := by decide

/-- The assembler refuses an operand above 31 for a symbol, and one on a command without operands (R75). -/
theorem test_assembler :
    assembleLine ['P', 'M', '_', 'S', 'T', 'E', 'P', ' ', '3', '2'] = .error .operandTooLarge
      ∧ assembleLine ['N', 'O', 'P', ' ', '1'] = .error .unexpectedOperand
      ∧ assembleLine ['B', 'P', '_', 'P', 'A', 'C', 'K', '_', 'B', 'Y', 'T', 'E', ' ', '0', 'x', 'f', 'f', ' ', ';']
        = .ok [0x000012FF#32] := by decide

/-- Log entry 8: an empty operand list is refused, an empty string is not, and a semicolon in a string is a character. -/
theorem test_assembler_choices :
    assembleLine ['P', 'M', '_', 'S', 'Y', 'M', 'S'] = .error .badOperand
      ∧ assembleLine ['P', 'M', '_', 'S', 'T', 'R', ' ', Char.ofNat 34, Char.ofNat 34] = .ok []
      ∧ assembleLine ['P', 'M', '_', 'S', 'T', 'R', ' ', Char.ofNat 34, ';', Char.ofNat 34] = .ok [0x0000223B#32] := by
  decide

/-! ### Witnesses: for each statement with hypotheses, values that meet them, each clause at a boundary -/

theorem witness_decodeIsOpcodeLookup :
    0xFFFF00FF#32 &&& 0x0000FF00#32 = 0x0000#32 ∧ 0xFFFF01FF#32 &&& 0x0000FF00#32 = 0x0100#32
    ∧ 0x000010FF#32 &&& 0x0000FF00#32 = 0x1000#32 ∧ 0x000011FF#32 &&& 0x0000FF00#32 = 0x1100#32
    ∧ 0x000012FF#32 &&& 0x0000FF00#32 = 0x1200#32 ∧ 0x000013FF#32 &&& 0x0000FF00#32 = 0x1300#32
    ∧ 0x000014FF#32 &&& 0x0000FF00#32 = 0x1400#32 ∧ 0x000020FF#32 &&& 0x0000FF00#32 = 0x2000#32
    ∧ 0x000021FF#32 &&& 0x0000FF00#32 = 0x2100#32 ∧ 0x000022FF#32 &&& 0x0000FF00#32 = 0x2200#32
    ∧ 0x000023FF#32 &&& 0x0000FF00#32 = 0x2300#32 ∧ decode 0x000023FF#32 = .ok .pmFinal := by decide

theorem witness_decodeIsOpcodeLookup_illegal :
    ∀ j : Instr, 0x00002400#32 &&& 0x0000FF00#32 ≠ j.opc.setWidth 32 <<< 8 := by
  intro j; cases j <;> simp [Instr.opc]

theorem witness_illegalOpcodes :
    ((0x00000200#32).extractLsb' 8 8).toNat ∉ mappedOpcodes ∧ ((0x00000F00#32).extractLsb' 8 8).toNat ∉ mappedOpcodes
    ∧ ((0x00001500#32).extractLsb' 8 8).toNat ∉ mappedOpcodes ∧ ((0x00001F00#32).extractLsb' 8 8).toNat ∉ mappedOpcodes
    ∧ ((0x00002400#32).extractLsb' 8 8).toNat ∉ mappedOpcodes ∧ ((0x0000FF00#32).extractLsb' 8 8).toNat ∉ mappedOpcodes := by
  decide

theorem witness_ignoredFieldsDoNotDecode :
    (0xFFFF12FF#32).extractLsb' 0 16 = (0x000012FF#32).extractLsb' 0 16
    ∧ (0x000023FF#32).extractLsb' 8 8 = (0x00002300#32).extractLsb' 8 8
    ∧ ((0x000023FF#32).extractLsb' 8 8).toNat ∉ [0x12, 0x13, 0x21, 0x22] := by decide

theorem witness_assembledCommandsStayInRange :
    assembleCommands ['P', 'M', '_', 'S', 'T', 'E', 'P', ' ', '3', '1'] = .ok [.pmStep 0x1F#8]
    ∧ exec (.pmStep 0x1F#8) (stepping 1#40) = .next (stepping 0x3F#40)
    ∧ exec .nop (failed .operandRange) = .next (failed .operandRange) :=
  ⟨by decide, rfl, rfl⟩

theorem witness_pseudoCommandsExpand :
    ∀ c ∈ [Char.ofNat 0, Char.ofNat 127, Char.ofNat 33, Char.ofNat 35], c.toNat ≤ 127 ∧ c.toNat ≠ 34 := by
  simp

theorem witness_pseudoCommandsExpand_lists :
    [0#5, 31#5] ≠ [] ∧ [0x00#8, 0xFF#8] ≠ []
    ∧ writeOperands [0x00#8, 0x1F#8]
      = [' ', '0', 'x', '0', '0', ',', ' ', '0', 'x', '1', 'f'] := by decide

theorem witness_stepRunsDecodedCommand :
    let w := 0x00002300#32
    let s := issued [.write 0x0#4 w] State.reset
    let e := issued [.write 0x0#4 w] (failed .modeConflict)
    s.ready = true ∧ s.pending = .write 0x0#4 w :: [] ∧ s.err = false ∧ decode w = .ok .pmFinal
    ∧ e.ready = true ∧ e.pending = .write 0x0#4 w :: [] ∧ e.err = true ∧ w.extractLsb' 8 8 ≠ 0x01#8
    ∧ (0x00000100#32).extractLsb' 8 8 = 0x01#8
    ∧ ∃ x, decode 0x00000200#32 = .error x := ⟨rfl, rfl, rfl, rfl, rfl, rfl, rfl, by decide, by decide, _, rfl⟩

theorem witness_portAccessRights :
    (0x1#4 ≠ 0x0#4) ∧ (issued [.write 0xF#4 7#32] State.reset).pending = .write 0xF#4 7#32 :: []
    ∧ (issued [.write 0x0#4 7#32] State.reset).pending = .write 0x0#4 7#32 :: []
    ∧ (issued [.read 0xA#4] State.reset).pending = .read 0xA#4 :: [] ∧ State.reset.ready = true
    ∧ 0xA ≤ (0xA#4).toNat ∧ 0xA ≤ (0xF#4).toNat := by decide

theorem witness_accessesInIssueOrder :
    executeWord 0x00001000#32 (issued [.write 0x0#4 0x00001000#32, .read 0x1#4] State.reset)
      = .next (issued [.write 0x0#4 0x00001000#32, .read 0x1#4] (packing 0#7 0#3))
    ∧ executeWord 0x00001000#32 (issued [.read 0x1#4, .write 0x0#4 0x00001000#32] State.reset)
      = .next (issued [.read 0x1#4, .write 0x0#4 0x00001000#32] (packing 0#7 0#3))
    ∧ executeWord 0x00001000#32 (issued [.write 0x0#4 0x00001000#32, .write 0x0#4 0x000012FF#32] State.reset)
      = .next (issued [.write 0x0#4 0x00001000#32, .write 0x0#4 0x000012FF#32] (packing 0#7 0#3))
    ∧ (issued [.read 0x1#4, .read 0x1#4] State.reset).pending = .read 0x1#4 :: .read 0x1#4 :: []
    ∧ State.reset.ready = true := ⟨rfl, rfl, rfl, rfl, rfl⟩

theorem witness_twoRegisterReadsAgree :
    let s := issued [.read 0x4#4, .read 0x5#4] (stepping 0xFFFFFFFFFF#40)
    s.ready = true ∧ s.pending = .read 0x4#4 :: .read 0x5#4 :: []
    ∧ (issued [.read 0x6#4, .read 0x7#4] State.reset).pending = .read 0x6#4 :: .read 0x7#4 :: []
    ∧ (issued [.read 0x8#4, .read 0x9#4] State.reset).pending = .read 0x8#4 :: .read 0x9#4 :: [] := by decide

theorem witness_idleBlockHoldsItsState : (packing 0x07#7 3#3).pending = [] := by decide

theorem witness_portRefinesCommands :
    let commands := [Instr.bpStartPack, .bpPackByte 0xFF#8]
    let s := issued (commandsWithReads commands ++ [.resetInput]) State.reset
    s.ready = true ∧ s.replies = [] ∧ s.pending = commandsWithReads commands ++ [.resetInput]
    ∧ ∃ t, runCollect commands s = some (t, [0x1F#8]) := ⟨rfl, rfl, rfl, _, rfl⟩

theorem witness_blocksShareNothing :
    (1 : Nat) ≠ 0 ∧ Platform.stepBlock [State.reset, packing 0#7 0#3] 0 = .next [State.reset, packing 0#7 0#3] :=
  ⟨by decide, rfl⟩

theorem witness_accessBeforeResetRefused :
    let w := 0x00000100#32
    unready.ready = false ∧ (issued [.read 0x1#4] unready).pending = .read 0x1#4 :: []
    ∧ (issued [.write 0x1#4 w] unready).pending = .write 0x1#4 w :: [] ∧ (0x1#4 ≠ 0x0#4)
    ∧ (issued [.write 0x0#4 w] unready).pending = .write 0x0#4 w :: [] ∧ w.extractLsb' 8 8 = 0x01#8
    ∧ (0x00000200#32).extractLsb' 8 8 ≠ 0x01#8
    ∧ (issued [.resetInput] unready).pending = .resetInput :: [] := by decide

theorem witness_powerLossNeedsReset :
    (issued [.powerLoss, .read 0x1#4] State.reset).pending = .powerLoss :: [.read 0x1#4] := by decide

theorem witness_resetValuesAndRegisters :
    (issued [.resetInput] (failed .operandRange)).pending = .resetInput :: [] ∧ State.reset.AtReset := by decide

theorem witness_softResetFromEveryState : (0xFFFF01FF#32).extractLsb' 8 8 = 0x01#8 := by decide

theorem witness_nopChangesNothing :
    let w := 0xFFFF00FF#32
    let s := issued [.write 0x0#4 w] (failed .illegalOpcode)
    s.ready = true ∧ w.extractLsb' 8 8 = 0x00#8 ∧ s.pending = .write 0x0#4 w :: [] := by decide

theorem witness_startPackOpensStream :
    (0x000010FF#32).extractLsb' 8 8 = 0x10#8 ∧ (unpacking 0x7F#7 7#3).err = false
    ∧ exec .bpStartPack State.reset = .next (packing 0#7 0#3) := ⟨by decide, rfl, rfl⟩

theorem witness_startUnpackOpensStream :
    (0x000011FF#32).extractLsb' 8 8 = 0x11#8 ∧ (packing 0x0F#7 4#3).err = false
    ∧ exec .bpStartUnpack State.reset = .next (unpacking 0#7 0#3) := ⟨by decide, rfl, rfl⟩

theorem witness_packBytePush :
    (0x000012FF#32).extractLsb' 8 8 = 0x12#8
    ∧ (State.reset.err = false ∧ State.reset.bpMode ≠ .pack)
    ∧ (let s := packing 0x03#7 2#3; s.err = false ∧ s.bpMode = .pack ∧ s.liveOk ∧ 10 ≤ s.bpCnt.toNat + 8)
    ∧ (let s := packing 0x0F#7 4#3; s.err = false ∧ s.bpMode = .pack ∧ s.liveOk ∧ 10 ≤ s.bpCnt.toNat + 8)
    ∧ (let s := packing 0x01#7 1#3; s.err = false ∧ s.bpMode = .pack ∧ s.liveOk ∧ s.bpCnt.toNat + 8 < 10) := by decide

theorem witness_unpackSymbolPush :
    (0x000013FF#32).extractLsb' 8 8 = 0x13#8
    ∧ (State.reset.err = false ∧ State.reset.bpMode ≠ .unpack)
    ∧ (let s := unpacking 0#7 0#3; s.err = false ∧ s.bpMode = .unpack ∧ 31 < (0x20#8).toNat)
    ∧ (let s := unpacking 0x07#7 3#3
       s.err = false ∧ s.bpMode = .unpack ∧ (0x1F#8).toNat ≤ 31 ∧ s.liveOk ∧ 8 ≤ s.bpCnt.toNat + 5)
    ∧ (let s := unpacking 0x03#7 2#3
       s.err = false ∧ s.bpMode = .unpack ∧ (0x1F#8).toNat ≤ 31 ∧ s.liveOk ∧ s.bpCnt.toNat + 5 < 8) := by decide

theorem witness_flushClosesStream :
    (0x000014FF#32).extractLsb' 8 8 = 0x14#8
    ∧ (let s := packing 0x01#7 1#3; s.err = false ∧ s.bpMode = .pack ∧ s.liveOk ∧ 0 < s.bpCnt.toNat)
    ∧ (let s := packing 0#7 0#3; s.err = false ∧ (s.bpMode = .pack → s.liveOk ∧ s.bpCnt = 0#3))
    ∧ (let s := unpacking 0x7F#7 7#3; s.err = false ∧ (s.bpMode = .pack → s.liveOk ∧ s.bpCnt = 0#3)) := by decide

theorem witness_pushes :
    (let s := packing 0x0F#7 4#3; s.err = false ∧ s.liveOk ∧ s.bpMode = .pack)
    ∧ (let s := unpacking 0x7F#7 7#3; s.err = false ∧ s.liveOk ∧ s.bpMode = .unpack ∧ (0x1F#8).toNat ≤ 31) := by decide

theorem witness_streams : State.reset.err = false ∧ (unpacking 0x7F#7 7#3).err = false := by decide

theorem witness_streamEndsOnlyByItsCommands :
    exec (.bpPackByte 0#8) (packing 0#7 0#3) = .next { packing 0#7 3#3 with bpOcnt := 1 }
    ∧ Instr.bpPackByte 0#8 ∉ [Instr.bpFlush, .bpStartPack, .bpStartUnpack, .softReset]
    ∧ exec .pmInit (packing 0x07#7 3#3) = .next (packing 0x07#7 3#3) ∧ Instr.pmInit.isChecksum = true
    ∧ (packing 0x07#7 3#3).SameChecksum State.reset ∧ (packing 0x07#7 3#3).SameError State.reset :=
  ⟨rfl, by decide, rfl, rfl, by decide, by decide⟩

theorem witness_pmInitStartsComputation :
    (0x000020FF#32).extractLsb' 8 8 = 0x20#8 ∧ (stepping 5#40).err = false
    ∧ exec .pmInit (stepping 5#40) = .next State.reset := ⟨by decide, rfl, rfl⟩

theorem witness_pmStepCommand :
    (0x000021FF#32).extractLsb' 8 8 = 0x21#8 ∧ State.reset.err = false
    ∧ (0x1F#8).toNat ≤ 31 ∧ 31 < (0x20#8).toNat := by decide

theorem witness_pmStepCharCommand :
    (0x000022FF#32).extractLsb' 8 8 = 0x22#8 ∧ State.reset.err = false := by decide

theorem witness_pmFinalPublishesResult :
    (0x000023FF#32).extractLsb' 8 8 = 0x23#8 ∧ State.reset.err = false
    ∧ exec .pmFinal State.reset = .next { State.reset with pmRdy := true } := ⟨by decide, rfl, rfl⟩

theorem witness_stepsComputePolymod :
    List.Forall₂ (fun i v => i = Instr.pmStep (symbolOpnd v) ∨ ∃ x : Byte, i = .pmStepChar x ∧ x.extractLsb' 0 5 = v)
      [.pmStep 0x1F#8, .pmStepChar 0xFF#8] [31#5, 31#5] ∧ State.reset.err = false :=
  ⟨.cons (.inl rfl) (.cons (.inr ⟨0xFF#8, rfl, by decide⟩) .nil), rfl⟩

theorem witness_checksumSequence :
    State.reset.err = false ∧ [0x41#8].map asciiLower = [0x61#8].map asciiLower := by decide

theorem witness_validation : State.reset.err = false ∧ (List.replicate 8 31#5).length = 8 := by decide

theorem witness_prefixCaseHasNoEffect : [0x41#8, 0x5A#8].map asciiLower = [0x61#8, 0x7A#8].map asciiLower := by decide

theorem witness_errorPriority :
    (let w := 0x00001000#32; let s := failed .modeConflict; s.err = true ∧ (w.extractLsb' 8 8).toNat ≠ 0x01)
    ∧ (let w := 0x00000200#32; State.reset.err = false ∧ (w.extractLsb' 8 8).toNat ∉ mappedOpcodes)
    ∧ (let w := 0x00001300#32; (w.extractLsb' 8 8).toNat = 0x13 ∧ (packing 0#7 0#3).bpMode ≠ .unpack)
    ∧ (let w := 0x00001320#32; (unpacking 0#7 0#3).bpMode = .unpack ∧ 31 < (w.extractLsb' 0 8).toNat)
    ∧ (let w := 0x0000131F#32; (unpacking 0#7 0#3).liveOk ∧ (w.extractLsb' 0 8).toNat ≤ 31) := by decide

theorem witness_errorStateIgnoresCommands :
    let s := issued [.read 0x1#4] (failed .operandRange)
    s.err = true ∧ (0x00000000#32).extractLsb' 8 8 ≠ 0x01#8 ∧ (0x00000100#32).extractLsb' 8 8 = 0x01#8
    ∧ s.ready = true ∧ s.pending = .read 0x1#4 :: [] := by decide

theorem witness_errorsArePrecise :
    let u := { packing 0#7 0#3 with err := true, errCode := .modeConflict }
    runCommands [.bpStartPack] State.reset = .next (packing 0#7 0#3) ∧ (packing 0#7 0#3).err = false
    ∧ exec (.bpUnpackSym 0x03#8) (packing 0#7 0#3) = .next u ∧ u.err = true
    ∧ Instr.softReset ∉ [Instr.bpPackByte 0xFF#8, .pmFinal] := ⟨rfl, rfl, rfl, rfl, by decide⟩

theorem witness_errorLeftOnlyByReset :
    let s := issued [.write 0x0#4 0x00000100#32] (failed .modeConflict)
    s.err = true ∧ (∀ rest, s.pending ≠ .powerLoss :: rest) ∧ step s = .next State.reset ∧ State.reset.err = false
    ∧ step (issued [.resetInput] (failed .modeConflict)) = .next State.reset :=
  ⟨rfl, fun _ h => by simp [issued] at h, rfl, rfl, rfl⟩

theorem witness_noHiddenState : ∀ idx : RegIdx, hostRead idx State.reset = hostRead idx (issued [.resetInput] State.reset) :=
  fun _ => rfl

theorem witness_onlyNamedCommandsWrite :
    exec (.pmStep 0#8) State.reset = .next (stepping 0x20#40) ∧ Instr.pmStep 0#8 ≠ .softReset
    ∧ (stepping 0x20#40).pmC ≠ State.reset.pmC
    ∧ exec .pmFinal (stepping 0#40) = .next { stepping 0#40 with pmRes := 1#40, pmRdy := true }
    ∧ exec .bpStartPack State.reset = .next (packing 0#7 0#3)
    ∧ exec (.bpPackByte 0#8) State.reset = .next (failed .modeConflict) ∧ ¬ State.reset.SameError (failed .modeConflict)
    ∧ Instr.nop.isBitPacker = false ∧ Instr.nop.isChecksum = false :=
  ⟨rfl, by decide, by decide, rfl, rfl, rfl, by decide, rfl, rfl⟩

theorem witness_unitsCommute :
    Instr.bpStartPack.isBitPacker = true ∧ (Instr.pmStep 0#8).isChecksum = true
    ∧ exec .bpStartPack State.reset = .next (packing 0#7 0#3) ∧ (packing 0#7 0#3).err = false
    ∧ exec (.pmStep 0#8) State.reset = .next (stepping 0x20#40) ∧ (stepping 0x20#40).err = false :=
  ⟨rfl, rfl, rfl, rfl, rfl, rfl⟩

theorem witness_unitsDoNotReadEachOther :
    State.reset.SameError (stepping 5#40) ∧ State.reset.SameBitPacker (stepping 5#40)
    ∧ exec .bpStartPack State.reset = .next (packing 0#7 0#3)
    ∧ State.reset.SameError (packing 0x07#7 3#3) ∧ State.reset.SameChecksum (packing 0x07#7 3#3)
    ∧ exec .pmFinal State.reset = .next { State.reset with pmRdy := true } :=
  ⟨by decide, by decide, rfl, by decide, by decide, rfl⟩

theorem witness_commandsKeepElementRelations :
    (packing 0x0F#7 4#3).elementsOk
    ∧ exec (.bpPackByte 0xFF#8) (packing 0x0F#7 4#3)
      = .next { packing 0x03#7 2#3 with bpOut0 := 0x1F#8, bpOut1 := 0x1F#8, bpOcnt := 2 } := ⟨by decide, rfl⟩

theorem witness_stepKeepsElementRelations :
    (issued [.powerLoss] (packing 0x0F#7 4#3)).Inv ∧ (packing 0x0F#7 4#3).ready = true
    ∧ step (issued [.resetInput] (packing 0x0F#7 4#3)) = .next State.reset := ⟨by decide, rfl, rfl⟩

theorem witness_readyBlockNeverStops :
    ((issued [.powerLoss] (packing 0x0F#7 4#3)).Inv ∧ (issued [.powerLoss] (packing 0x0F#7 4#3)).ready = true)
    ∧ ((packing 0x0F#7 4#3).Inv ∧ (packing 0x0F#7 4#3).ready = true ∧ (packing 0x0F#7 4#3).pending = [])
    ∧ (issued [.resetInput] (failed .operandRange)).Inv
    ∧ (issued [.write 0x0#4 0x000012FF#32] (packing 0x0F#7 4#3)).Inv
    ∧ (issued [.read 0x9#4] State.reset).Inv ∧ (issued [.read 0x9#4] State.reset).ready = true :=
  ⟨⟨by decide, rfl⟩, ⟨by decide, rfl, rfl⟩, by decide, by decide, by decide, rfl⟩

theorem witness_unreachableValuesStayUnreached :
    Event.powerLoss ∉ [Event.write 0x0#4 0x00001000#32, .read 0x1#4, .resetInput] := by decide

theorem witness_unreachableStateRefused :
    (let s := packing 0#7 5#3; s.err = false ∧ ¬ s.liveOk ∧ s.bpMode = .pack)
    ∧ (let s := unpacking 0x01#7 0#3; s.err = false ∧ ¬ s.liveOk ∧ s.bpMode = .unpack ∧ (0x1F#8).toNat ≤ 31) := by decide

end Sys2Proof.Tests
end

section
/-! What one command can do: the effects of R102 to R108, R132 to R135, R160, R161 and the errors of R170, said once
as a relation, which every answer of `exec` satisfies. Statements about all commands split on it. -/

namespace Sys2Proof.Machine

/-- The command's own checks raise the error `code` in state `s` (R170, R173). -/
inductive CommandFails (s : State) : Instr → ErrCode → Prop where
  | packMode (b : Byte) (hm : s.bpMode ≠ .pack) : CommandFails s (.bpPackByte b) .modeConflict
  | unpackMode (b : Byte) (hm : s.bpMode ≠ .unpack) : CommandFails s (.bpUnpackSym b) .modeConflict
  | unpackRange (b : Byte) (hm : s.bpMode = .unpack) (hb : 31 < b.toNat) :
      CommandFails s (.bpUnpackSym b) .operandRange
  | stepRange (b : Byte) (hb : 31 < b.toNat) : CommandFails s (.pmStep b) .operandRange

/-- `CommandEffect s i t`: in state `s` the command `i` may answer `t`, under the conditions the rules give. -/
inductive CommandEffect (s : State) : Instr → State → Prop where
  | nop : CommandEffect s .nop s
  | softReset : CommandEffect s .softReset (resetElements s)
  | ignored (i : Instr) (he : s.err = true) (hi : i ≠ .softReset) : CommandEffect s i s
  | fails (i : Instr) (code : ErrCode) (he : s.err = false) (hf : CommandFails s i code) :
      CommandEffect s i { s with err := true, errCode := code }
  | startPack (he : s.err = false) : CommandEffect s .bpStartPack ((s.openStream .pack).emit 0#8 0#8 0)
  | startUnpack (he : s.err = false) : CommandEffect s .bpStartUnpack ((s.openStream .unpack).emit 0#8 0#8 0)
  | packPush (b : Byte) (he : s.err = false) (hm : s.bpMode = .pack) (hl : s.liveOk) :
      CommandEffect s (.bpPackByte b) (packPush b s)
  | unpackPush (b : Byte) (he : s.err = false) (hm : s.bpMode = .unpack) (hb : b.toNat ≤ 31) (hl : s.liveOk) :
      CommandEffect s (.bpUnpackSym b) (unpackPush (b.extractLsb' 0 5) s)
  | flushPadded (he : s.err = false) (hm : s.bpMode = .pack) (hl : s.liveOk) (hc : 0 < s.bpCnt.toNat) :
      CommandEffect s .bpFlush ((s.openStream .idle).emit (paddedSymbol s) 0#8 1)
  | flushEmpty (he : s.err = false) (hm : s.bpMode = .pack → s.liveOk ∧ s.bpCnt.toNat = 0) :
      CommandEffect s .bpFlush ((s.openStream .idle).emit 0#8 0#8 0)
  | pmInit (he : s.err = false) : CommandEffect s .pmInit { s with pmC := pmInitValue, pmRdy := false }
  | pmStep (b : Byte) (he : s.err = false) (hb : b.toNat ≤ 31) :
      CommandEffect s (.pmStep b) (s.pmAdvance (b.extractLsb' 0 5))
  | pmStepChar (b : Byte) (he : s.err = false) : CommandEffect s (.pmStepChar b) (s.pmAdvance (b.extractLsb' 0 5))
  | pmFinal (he : s.err = false) : CommandEffect s .pmFinal { s with pmRes := s.pmC ^^^ pmFinalXor, pmRdy := true }

variable {s t : State}

theorem exec_bpPackByte_effect {b : Byte} (he : s.err = false) (h : exec (.bpPackByte b) s = .next t) :
    CommandEffect s (.bpPackByte b) t := by
  rw [exec, execBpPackByte, unlessErr_of_ok he] at h
  split at h
  next hm => cases h; exact .fails _ _ he (.packMode b hm)
  next hm =>
    obtain ⟨hl, ht⟩ := withLiveBits_next h
    cases ht
    exact .packPush b he (not_not.1 hm) hl

theorem exec_bpUnpackSym_effect {b : Byte} (he : s.err = false) (h : exec (.bpUnpackSym b) s = .next t) :
    CommandEffect s (.bpUnpackSym b) t := by
  rw [exec, execBpUnpackSym, unlessErr_of_ok he] at h
  split at h
  next hm => cases h; exact .fails _ _ he (.unpackMode b hm)
  next hm =>
    have hm := not_not.1 hm
    obtain hb | hb := Nat.lt_or_ge 31 b.toNat
    · simp only [symbolOperand_of_gt hb] at h
      cases h
      exact .fails _ _ he (.unpackRange b hm hb)
    · simp only [symbolOperand_of_le hb] at h
      obtain ⟨hl, ht⟩ := withLiveBits_next h
      cases ht
      exact .unpackPush b he hm hb hl

theorem exec_bpFlush_effect (he : s.err = false) (h : exec .bpFlush s = .next t) : CommandEffect s .bpFlush t := by
  rw [exec, execBpFlush, unlessErr_of_ok he] at h
  split at h
  next hm =>
    obtain ⟨hl, ht⟩ := withLiveBits_next h
    split at ht
    next hc => cases ht; exact .flushPadded he hm hl hc
    next hc => cases ht; exact .flushEmpty he fun _ => ⟨hl, by omega⟩
  next hm => cases h; exact .flushEmpty he fun hp => absurd hp hm

theorem exec_pmStep_effect {b : Byte} (he : s.err = false) (h : exec (.pmStep b) s = .next t) :
    CommandEffect s (.pmStep b) t := by
  rw [exec, execPmStep, unlessErr_of_ok he] at h
  obtain hb | hb := Nat.lt_or_ge 31 b.toNat
  · simp only [symbolOperand_of_gt hb] at h
    cases h
    exact .fails _ _ he (.stepRange b hb)
  · simp only [symbolOperand_of_le hb] at h
    cases h
    exact .pmStep b he hb

/-- A command without checks of its own has one effect. -/
theorem eq_of_unlessErr_next {u : State} (he : s.err = false) (h : unlessErr s (.next u) = .next t) : t = u := by
  rw [unlessErr_of_ok he] at h
  exact (Host.Outcome.next.inj h).symm

/-- Every next state a command answers is one of its effects: the inversion lemma of `exec`. -/
theorem exec_effect {i : Instr} (h : exec i s = .next t) : CommandEffect s i t := by
  by_cases hi : i = .softReset
  · subst hi; cases h; exact .softReset
  cases he : s.err with
  | true => rw [exec_of_err he hi] at h; cases h; exact .ignored i he hi
  | false =>
    cases i with
    | nop => cases h; exact .nop
    | softReset => exact absurd rfl hi
    | bpStartPack => cases eq_of_unlessErr_next he h; exact .startPack he
    | bpStartUnpack => cases eq_of_unlessErr_next he h; exact .startUnpack he
    | bpPackByte b => exact exec_bpPackByte_effect he h
    | bpUnpackSym b => exact exec_bpUnpackSym_effect he h
    | bpFlush => exact exec_bpFlush_effect he h
    | pmInit => cases eq_of_unlessErr_next he h; exact .pmInit he
    | pmStep b => exact exec_pmStep_effect he h
    | pmStepChar b => cases eq_of_unlessErr_next he h; exact .pmStepChar b he
    | pmFinal => cases eq_of_unlessErr_next he h; exact .pmFinal he

theorem CommandFails.code_ne_none {i : Instr} {code : ErrCode} (h : CommandFails s i code) : code ≠ .none := by
  cases h <;> decide

end Sys2Proof.Machine
end

section
/-! The form of a push: what R104 and R105 write is an `emit` and a `keepLive`, and nothing else. -/

namespace Sys2Proof.Machine

variable (s : State)

theorem setWidth_sym_le (v : Sym) : (v.setWidth 8).toNat ≤ 31 := by
  rw [BitVec.toNat_setWidth]
  have := v.isLt
  omega

/-- A push of a byte emits one or two lanes below 32; from at most 4 live bits it leaves at most 4 (R101, R104). -/
theorem packPush_form (b : Byte) :
    ∃ (out0 out1 : Byte) (count : Fin 3) (t : BitVec 12) (k : Nat),
      packPush b s = (s.emit out0 out1 count).keepLive t k
      ∧ (s.bpCnt.toNat ≤ 4 → k ≤ 4) ∧ out0.toNat ≤ 31 ∧ out1.toNat ≤ 31
      ∧ count ≠ 0 ∧ (count ≠ 2 → out1 = 0#8) := by
  by_cases hn : 10 ≤ s.bpCnt.toNat + 8
  · exact ⟨_, _, _, _, _, if_pos hn, fun hc => by omega, setWidth_sym_le _, setWidth_sym_le _, by decide,
      fun h => absurd rfl h⟩
  · exact ⟨_, _, _, _, _, if_neg hn, fun hc => by omega, setWidth_sym_le _, by decide, by decide, fun _ => rfl⟩

/-- A push of a symbol emits at most the first lane and leaves at most 7 bits (R101, R105). -/
theorem unpackPush_form (v : Sym) :
    ∃ (out0 : Byte) (count : Fin 3) (t : BitVec 12) (k : Nat),
      unpackPush v s = (s.emit out0 0#8 count).keepLive t k ∧ k ≤ 7 ∧ (count = 0 → out0 = 0#8) := by
  have hc := s.bpCnt.isLt
  by_cases hn : 8 ≤ s.bpCnt.toNat + 5
  · exact ⟨_, _, _, _, if_pos hn, by omega, fun h => absurd h (by decide)⟩
  · exact ⟨_, _, _, _, if_neg hn, by omega, fun _ => rfl⟩

/-- The two states agree on what no push writes. -/
structure State.SameButPush (s t : State) : Prop where
  bpMode : t.bpMode = s.bpMode
  pmC : t.pmC = s.pmC
  pmRes : t.pmRes = s.pmRes
  pmRdy : t.pmRdy = s.pmRdy
  error : s.SameError t
  port : s.SamePort t

theorem State.SameButPush.checksum {s t : State} (h : s.SameButPush t) : s.SameChecksum t :=
  ⟨h.pmC, h.pmRes, h.pmRdy⟩

theorem packPush_frame (b : Byte) : s.SameButPush (packPush b s) := by
  obtain ⟨out0, out1, count, t, k, heq, -⟩ := packPush_form s b
  rw [heq]
  exact ⟨rfl, rfl, rfl, rfl, ⟨rfl, rfl⟩, ⟨rfl, rfl, rfl, rfl⟩⟩

theorem unpackPush_frame (v : Sym) : s.SameButPush (unpackPush v s) := by
  obtain ⟨out0, count, t, k, heq, -⟩ := unpackPush_form s v
  rw [heq]
  exact ⟨rfl, rfl, rfl, rfl, ⟨rfl, rfl⟩, ⟨rfl, rfl, rfl, rfl⟩⟩

end Sys2Proof.Machine
end

section
/-! The invariant: `elementsOk` under the shared operations, under every command, under every event. -/

namespace Sys2Proof.Machine

variable {s t : State}

theorem resetElements_elementsOk (s : State) : (resetElements s).elementsOk := by simp [State.elementsOk]

/-- Opening or closing a stream with lanes of the form of R24 keeps the relations. -/
theorem openStream_emit_elementsOk {m : BpMode} {a : Byte} {n : Fin 3} (h : s.elementsOk) (h0 : n = 0 → a = 0#8)
    (ha : m = .pack → a.toNat ≤ 31) : ((s.openStream m).emit a 0#8 n).elementsOk := by
  obtain ⟨-, -, -, -, -, -, hrdy, herr⟩ := h
  exact ⟨by simp, fun _ => ⟨rfl, rfl⟩, fun _ => by simp, h0, fun _ => rfl, fun hm => ⟨ha hm, by simp⟩, hrdy, herr⟩

/-- A push keeps the relations: the lanes have the form of R24 and the bits kept fit. -/
theorem emit_keepLive_elementsOk {a b : Byte} {n : Fin 3} {w : BitVec 12} {k : Nat} (h : s.elementsOk)
    (hopen : s.bpMode ≠ .idle) (hk : k ≤ 7)
    (hpack : s.bpMode = .pack → k ≤ 4 ∧ a.toNat ≤ 31 ∧ b.toNat ≤ 31)
    (h0 : n = 0 → a = 0#8) (h2 : n ≠ 2 → b = 0#8) : ((s.emit a b n).keepLive w k).elementsOk := by
  obtain ⟨-, -, -, -, -, -, hrdy, herr⟩ := h
  obtain ⟨hacc, hcnt⟩ := (s.emit a b n).keepLive_toNat w hk
  refine ⟨?_, fun hm => absurd hm hopen, fun hm => ?_, h0, h2, fun hm => (hpack hm).2, hrdy, herr⟩
  · rw [hacc, hcnt]; exact Nat.mod_lt _ (Nat.two_pow_pos k)
  · rw [hcnt]; exact (hpack hm).1

theorem packPush_elementsOk (b : Byte) (h : s.elementsOk) (hm : s.bpMode = .pack) (hl : s.liveOk) :
    (packPush b s).elementsOk := by
  obtain ⟨out0, out1, count, w, k, heq, hk, ha, hb, h0, h2⟩ := packPush_form s b
  have hk := hk (hl.2 hm)
  rw [heq]
  exact emit_keepLive_elementsOk h (by simp [hm]) (by omega) (fun _ => ⟨hk, ha, hb⟩) (fun hc => absurd hc h0) h2

theorem unpackPush_elementsOk (v : Sym) (h : s.elementsOk) (hm : s.bpMode = .unpack) :
    (unpackPush v s).elementsOk := by
  obtain ⟨out0, count, w, k, heq, hk, h0⟩ := unpackPush_form s v
  rw [heq]
  exact emit_keepLive_elementsOk h (by simp [hm]) hk (fun hp => by simp [hm] at hp) h0 (fun _ => rfl)

/-- Raising an error touches the relation of `ERR` and `ERR_CODE` only, which holds of any code but `none` (R170). -/
theorem raised_elementsOk {code : ErrCode} (h : s.elementsOk) (hc : code ≠ .none) :
    { s with err := true, errCode := code }.elementsOk := by
  obtain ⟨hlive, hidle, hpack, h0, h2, hlanes, hrdy, -⟩ := h
  exact ⟨hlive, hidle, hpack, h0, h2, hlanes, hrdy, by simp [hc]⟩

/-- A change of the ChecksumEngine's elements keeps the relations when R27 holds of the new values. -/
theorem checksum_elementsOk {c r : PmWord} {rdy : Bool} (h : s.elementsOk) (hr : rdy = true → r = c ^^^ 1#40) :
    { s with pmC := c, pmRes := r, pmRdy := rdy }.elementsOk := by
  obtain ⟨hlive, hidle, hpack, h0, h2, hlanes, -, herr⟩ := h
  exact ⟨hlive, hidle, hpack, h0, h2, hlanes, hr, herr⟩

/-- Every effect of a command keeps the relations of R22 to R24, R27 and R28. -/
theorem CommandEffect.elementsOk {i : Instr} (h : CommandEffect s i t) (hs : s.elementsOk) : t.elementsOk := by
  cases h with
  | nop | ignored => exact hs
  | softReset => exact resetElements_elementsOk s
  | fails _ _ _ hf => exact raised_elementsOk hs hf.code_ne_none
  | startPack | startUnpack | flushEmpty =>
    exact openStream_emit_elementsOk hs (fun _ => rfl) (fun _ => by simp)
  | packPush b _ hm hl => exact packPush_elementsOk b hs hm hl
  | unpackPush b _ hm => exact unpackPush_elementsOk _ hs hm
  | flushPadded => exact openStream_emit_elementsOk hs (fun hc => absurd hc (by decide)) (fun hm => by simp at hm)
  | pmInit | pmStep | pmStepChar => exact checksum_elementsOk hs (fun hr => by simp at hr)
  | pmFinal => exact checksum_elementsOk hs (fun _ => rfl)

theorem executeWord_elementsOk {w : Word} (h : executeWord w s = .next t) (hs : s.elementsOk) : t.elementsOk := by
  cases hd : decode w with
  | ok i => rw [executeWord_of_decode hd] at h; exact (exec_effect h).elementsOk hs
  | error e =>
    rw [executeWord_of_illegal hd] at h
    obtain ⟨-, rfl⟩ | ⟨-, hr⟩ := unlessErr_next h
    · exact hs
    · cases hr; exact raised_elementsOk hs (by decide)

/-- The write that R192 names as a reset decodes to `SOFT_RESET` and goes to `CMD`. -/
theorem isSoftResetWrite_iff {idx : RegIdx} {w : Word} :
    isSoftResetWrite idx w = true ↔ idx = 0x0#4 ∧ opcField w = 0x01#8 := by simp [isSoftResetWrite]

theorem decode_softReset {w : Word} (h : opcField w = 0x01#8) : decode w = .ok .softReset := by
  simp [decode, h]

/-- Before the first reset the only host access that is performed is the write of `SOFT_RESET` (R192). -/
theorem performEvent_softResetWrite {idx : RegIdx} {w : Word} (h : isSoftResetWrite idx w = true) :
    performEvent (.write idx w) s = .next (resetElements s) := by
  obtain ⟨rfl, hw⟩ := isSoftResetWrite_iff.1 h
  simp [performEvent, h, hostWrite, executeWord_of_decode (decode_softReset hw), exec_softReset]

theorem performEvent_write_inv {idx : RegIdx} {w : Word} (h : performEvent (.write idx w) s = .next t)
    (hs : s.Inv) : t.Inv := by
  cases hr : s.ready with
  | true =>
    by_cases hi : idx = 0x0#4
    · subst hi
      rw [performEvent_write_cmd hr] at h
      exact fun _ => executeWord_elementsOk h (hs hr)
    · rw [performEvent_write_other hr hi] at h
      cases h; exact hs
  | false =>
    by_cases hw : isSoftResetWrite idx w = true
    · rw [performEvent_softResetWrite hw] at h
      cases h; exact fun _ => resetElements_elementsOk s
    · simp [performEvent, hr, hw] at h

theorem performEvent_inv {e : Event} (h : performEvent e s = .next t) (hs : s.Inv) : t.Inv := by
  cases e with
  | write idx w => exact performEvent_write_inv h hs
  | read idx =>
    cases hr : s.ready with
    | true => rw [performEvent_read hr] at h; cases h; exact hs
    | false => simp [performEvent, hr] at h
  | resetInput => cases h; exact fun _ => resetElements_elementsOk s
  | powerLoss => cases h; intro hr; simp at hr

/-- Settles O56: each event keeps the invariant, by the effects of the commands. -/
theorem stepKeepsElementRelations : Obligations.StepKeepsElementRelations := by
  intro s t hs h
  cases hp : s.pending with
  | nil => rw [step_of_idle hp] at h; cases h; exact hs
  | cons e rest => rw [step_of_pending hp] at h; exact performEvent_inv h hs

end Sys2Proof.Machine
end

section
/-! The frame of the commands (R21 to R32, R200), element by element over the effects. -/

namespace Sys2Proof.Machine

variable {s t : State} {i : Instr}

/-- No command but `SOFT_RESET` changes what is around the block. -/
theorem CommandEffect.samePort (h : CommandEffect s i t) (hi : i ≠ .softReset) : s.SamePort t := by
  cases h with
  | softReset => exact absurd rfl hi
  | packPush b => exact (packPush_frame s b).port
  | unpackPush b => exact (unpackPush_frame s _).port
  | _ => exact ⟨rfl, rfl, rfl, rfl⟩

theorem CommandEffect.sameBitPacker (h : CommandEffect s i t) (hi : i ≠ .softReset) (hb : i.isBitPacker = false) :
    s.SameBitPacker t := by
  cases h with
  | softReset => exact absurd rfl hi
  | startPack | startUnpack | packPush | unpackPush | flushPadded | flushEmpty => simp [Instr.isBitPacker] at hb
  | _ => exact ⟨rfl, rfl, rfl, rfl, rfl, rfl⟩

theorem CommandEffect.sameChecksum (h : CommandEffect s i t) (hi : i ≠ .softReset) (hc : i.isChecksum = false) :
    s.SameChecksum t := by
  cases h with
  | softReset => exact absurd rfl hi
  | pmInit | pmStep | pmStepChar | pmFinal => simp [Instr.isChecksum] at hc
  | packPush b => exact (packPush_frame s b).checksum
  | unpackPush b => exact (unpackPush_frame s _).checksum
  | _ => exact ⟨rfl, rfl, rfl⟩

theorem CommandEffect.pmC_changed (h : CommandEffect s i t) (hi : i ≠ .softReset) (hne : t.pmC ≠ s.pmC) :
    i = .pmInit ∨ (∃ d, i = .pmStep d) ∨ ∃ c, i = .pmStepChar c := by
  cases h with
  | pmInit => exact .inl rfl
  | pmStep b => exact .inr (.inl ⟨b, rfl⟩)
  | pmStepChar b => exact .inr (.inr ⟨b, rfl⟩)
  | softReset => exact absurd rfl hi
  | packPush b => exact absurd (packPush_frame s b).pmC hne
  | unpackPush b => exact absurd (unpackPush_frame s _).pmC hne
  | _ => exact absurd rfl hne

theorem CommandEffect.pmRes_changed (h : CommandEffect s i t) (hi : i ≠ .softReset) (hne : t.pmRes ≠ s.pmRes) :
    i = .pmFinal := by
  cases h with
  | pmFinal => rfl
  | softReset => exact absurd rfl hi
  | packPush b => exact absurd (packPush_frame s b).pmRes hne
  | unpackPush b => exact absurd (unpackPush_frame s _).pmRes hne
  | _ => exact absurd rfl hne

theorem CommandEffect.bpMode_changed (h : CommandEffect s i t) (hi : i ≠ .softReset) (hne : t.bpMode ≠ s.bpMode) :
    i = .bpStartPack ∨ i = .bpStartUnpack ∨ i = .bpFlush := by
  cases h with
  | startPack => exact .inl rfl
  | startUnpack => exact .inr (.inl rfl)
  | flushPadded | flushEmpty => exact .inr (.inr rfl)
  | softReset => exact absurd rfl hi
  | packPush b => exact absurd (packPush_frame s b).bpMode hne
  | unpackPush b => exact absurd (unpackPush_frame s _).bpMode hne
  | _ => exact absurd rfl hne

/-- `ERR` and `ERR_CODE` change only when the command's own checks fail, and then nothing else does (R171). -/
theorem CommandEffect.error_changed (h : CommandEffect s i t) (hi : i ≠ .softReset) (hne : ¬ s.SameError t) :
    s.err = false ∧ ∃ code, CommandFails s i code ∧ t = { s with err := true, errCode := code } := by
  cases h with
  | fails _ code he hf => exact ⟨he, code, hf, rfl⟩
  | softReset => exact absurd rfl hi
  | packPush b => exact absurd (packPush_frame s b).error hne
  | unpackPush b => exact absurd (unpackPush_frame s _).error hne
  | _ => exact absurd ⟨rfl, rfl⟩ hne

/-- The three commands that can fail. -/
theorem CommandFails.instr {code : ErrCode} (h : CommandFails s i code) :
    (∃ b, i = .bpPackByte b) ∨ (∃ v, i = .bpUnpackSym v) ∨ ∃ d, i = .pmStep d := by
  cases h with
  | packMode b => exact .inl ⟨b, rfl⟩
  | unpackMode b | unpackRange b => exact .inr (.inl ⟨b, rfl⟩)
  | stepRange b => exact .inr (.inr ⟨b, rfl⟩)

/-- Settles O52: the frame of each element, read off the effects. -/
theorem onlyNamedCommandsWrite : Obligations.OnlyNamedCommandsWrite := by
  intro i s t h hi
  have heff := exec_effect h
  refine ⟨heff.samePort hi, heff.sameBitPacker hi, heff.sameChecksum hi, heff.pmC_changed hi, heff.pmRes_changed hi,
    heff.bpMode_changed hi, fun hne => ?_⟩
  obtain ⟨he, code, hf, rfl⟩ := heff.error_changed hi hne
  exact ⟨he, rfl, ⟨rfl, rfl, rfl, rfl, rfl, rfl⟩, ⟨rfl, rfl, rfl⟩, hf.instr⟩

end Sys2Proof.Machine
end

section
/-! A ready block with the invariant always answers a next state: no command stops on live bits of the specified
form, and the port refuses nothing after a reset. -/

namespace Sys2Proof.Machine

variable {s : State}

theorem unlessErr_answers {k : Result} (h : ∃ t, k = .next t) : ∃ t, unlessErr s k = .next t := by
  cases he : s.err with
  | true => exact ⟨s, unlessErr_of_err he k⟩
  | false => rwa [unlessErr_of_ok he]

/-- Every command answers a next state when the live bits have the specified form (R175). -/
theorem exec_answers (i : Instr) (hl : s.liveOk) : ∃ t, exec i s = .next t := by
  cases i with
  | nop | softReset => exact ⟨_, rfl⟩
  | bpStartPack | bpStartUnpack | pmInit | pmStepChar | pmFinal => exact unlessErr_answers ⟨_, rfl⟩
  | bpPackByte b =>
    apply unlessErr_answers
    split
    · exact ⟨_, rfl⟩
    · exact ⟨_, withLiveBits_of_ok hl _⟩
  | bpUnpackSym b =>
    apply unlessErr_answers
    split
    · exact ⟨_, rfl⟩
    · split
      · exact ⟨_, rfl⟩
      · exact ⟨_, withLiveBits_of_ok hl _⟩
  | bpFlush =>
    apply unlessErr_answers
    rw [withLiveBits_of_ok hl]
    split
    · split <;> exact ⟨_, rfl⟩
    · exact ⟨_, rfl⟩
  | pmStep b =>
    apply unlessErr_answers
    split <;> exact ⟨_, rfl⟩

theorem executeWord_answers (w : Word) (hl : s.liveOk) : ∃ t, executeWord w s = .next t := by
  cases hd : decode w with
  | ok i => rw [executeWord_of_decode hd]; exact exec_answers i hl
  | error e => rw [executeWord_of_illegal hd]; exact unlessErr_answers ⟨_, rfl⟩

theorem performEvent_answers (e : Event) (hr : s.ready = true) (hl : s.liveOk) :
    ∃ t, performEvent e s = .next t := by
  cases e with
  | write idx w =>
    by_cases hi : idx = 0x0#4
    · subst hi; rw [performEvent_write_cmd hr]; exact executeWord_answers w hl
    · exact ⟨s, performEvent_write_other hr hi w⟩
  | read idx => exact ⟨_, performEvent_read hr idx⟩
  | resetInput | powerLoss => exact ⟨_, rfl⟩

/-- Settles O58: with or without an event, a ready block whose live bits have the specified form steps. -/
theorem readyBlockNeverStops : Obligations.ReadyBlockNeverStops := by
  intro s hs hr
  obtain ⟨hacc, -, hcnt, -⟩ := hs hr
  cases hp : s.pending with
  | nil => exact ⟨s, step_of_idle hp⟩
  | cons e rest => rw [step_of_pending hp]; exact performEvent_answers e hr ⟨hacc, hcnt⟩

end Sys2Proof.Machine
end

section
/-! The host registers as numbers (R37 to R42): each register's value from the elements, and back. -/

namespace Sys2Proof.Machine

/-- Two fields side by side, as a number. -/
theorem toNat_append_eq_add {m n : Nat} (x : BitVec m) (y : BitVec n) :
    (x ++ y).toNat = x.toNat * 2 ^ n + y.toNat := by
  rw [BitVec.toNat_append, Nat.shiftLeft_eq, Nat.mul_comm, ← Nat.two_pow_add_eq_or_of_lt y.isLt]

theorem toNat_extractLsb'_eq_div {n : Nat} (x : BitVec n) (start len : Nat) :
    (x.extractLsb' start len).toNat = x.toNat / 2 ^ start % 2 ^ len := by
  rw [BitVec.extractLsb'_toNat, Nat.shiftRight_eq_div_pow]

theorem BpMode.toBits_le (m : BpMode) : m.toBits.toNat ≤ 2 := by cases m <;> decide

theorem ErrCode.toBits_le (c : ErrCode) : c.toBits.toNat ≤ 3 := by cases c <;> decide

theorem BpMode.toBits_inj {m n : BpMode} (h : m.toBits = n.toBits) : m = n := by
  revert h; cases m <;> cases n <;> decide

theorem ErrCode.toBits_inj {c d : ErrCode} (h : c.toBits = d.toBits) : c = d := by
  revert h; cases c <;> cases d <;> decide

/-- What each field of `STATUS` can hold (R37). -/
theorem statusFields_bound (s : State) :
    s.err.toNat ≤ 1 ∧ s.errCode.toBits.toNat ≤ 3 ∧ s.bpMode.toBits.toNat ≤ 2 ∧ s.bpOcnt.val ≤ 2
      ∧ s.bpCnt.toNat ≤ 7 ∧ s.pmRdy.toNat ≤ 1 ∧ (pmZero s).toNat ≤ 1 :=
  ⟨s.err.toNat_le, s.errCode.toBits_le, s.bpMode.toBits_le, Nat.le_of_lt_succ s.bpOcnt.isLt,
    Nat.le_of_lt_succ s.bpCnt.isLt, s.pmRdy.toNat_le, (pmZero s).toNat_le⟩

/-- `STATUS` as a number: the fields of R37, each at the weight of its lowest bit. -/
theorem statusReg_toNat (s : State) :
    (statusReg s).toNat = s.err.toNat + 2 * s.errCode.toBits.toNat + 16 * s.bpMode.toBits.toNat
      + 64 * s.bpOcnt.val + 256 * s.bpCnt.toNat + 4096 * s.pmRdy.toNat + 8192 * (pmZero s).toNat := by
  obtain ⟨herr, hcode, hmode, hocnt, hcnt, hrdy, hzero⟩ := statusFields_bound s
  simp only [statusReg, BitVec.toNat_setWidth, toNat_append_eq_add, BitVec.toNat_ofBool, BitVec.toNat_ofNat]
  omega

/-- Settles O49: each field is read off `STATUS` as a number. -/
theorem statusLayout : Obligations.StatusLayout := by
  intro s r
  have hr : r.toNat = _ := statusReg_toNat s
  obtain ⟨herr, hcode, hmode, hocnt, hcnt, hrdy, hzero⟩ := statusFields_bound s
  rw [show (s.pmRdy && s.pmRes == 0#40) = pmZero s from rfl]
  simp only [BitVec.toNat_eq, toNat_extractLsb'_eq_div, hr, BitVec.toNat_ofBool, BitVec.toNat_ofNat]
  exact ⟨by omega, by omega, by omega, by omega, by omega, by omega, by omega, by omega, by omega, by omega,
    by omega, by omega, rfl⟩

/-- The four lanes of a symbol register as a number (R42). -/
theorem symLanes_toNat (a b c d : Sym) :
    (symLanes a b c d).toNat = a.toNat + 2 ^ 8 * b.toNat + 2 ^ 16 * c.toNat + 2 ^ 24 * d.toNat := by
  simp only [symLanes, BitVec.toNat_cast, toNat_append_eq_add, BitVec.toNat_ofNat]
  omega

/-- The lane `k` of a symbol register holds the register's symbol `k`, with zeros above it (R42). -/
theorem symLanes_lane (sym : Fin 4 → Sym) (k : Fin 4) :
    (symLanes (sym 0) (sym 1) (sym 2) (sym 3)).toNat / 2 ^ (8 * k.val) % 256 = (sym k).toNat := by
  have h0 := (sym 0).isLt
  have h1 := (sym 1).isLt
  have h2 := (sym 2).isLt
  have h3 := (sym 3).isLt
  rw [symLanes_toNat]
  fin_cases k <;> dsimp <;> omega

theorem pmSym_toNat (s : State) (k : Fin 8) :
    (pmSym s k).toNat = s.pmRes.toNat / 2 ^ (5 * (7 - k.val)) % 32 := by
  rw [pmSym, toNat_extractLsb'_eq_div, show 35 - 5 * k.val = 5 * (7 - k.val) by omega]
  rfl

/-- The two registers of a 40-bit value: its low 32 bits and the 8 bits above them (R40, R41). -/
theorem lowHalf_toNat (x : PmWord) : (x.extractLsb' 0 32).toNat = x.toNat % 2 ^ 32 := by
  rw [toNat_extractLsb'_eq_div, Nat.pow_zero, Nat.div_one]

theorem highHalf_toNat (x : PmWord) : ((x.extractLsb' 32 8).setWidth 32).toNat = x.toNat / 2 ^ 32 := by
  have := x.isLt
  rw [BitVec.toNat_setWidth, toNat_extractLsb'_eq_div]
  omega

theorem bpOutReg_toNat (s : State) : (bpOutReg s).toNat = s.bpOut1.toNat * 2 ^ 8 + s.bpOut0.toNat := by
  have h0 := s.bpOut0.isLt
  have h1 := s.bpOut1.isLt
  rw [bpOutReg, BitVec.toNat_setWidth, toNat_append_eq_add]
  omega

theorem bpAccReg_toNat (s : State) : (bpAccReg s).toNat = s.bpAcc.toNat := by
  have := s.bpAcc.isLt
  rw [bpAccReg, BitVec.toNat_setWidth]
  omega

/-- Settles O50: the register values, one lemma per register. -/
theorem dataRegisters : Obligations.DataRegisters := by
  intro s
  refine ⟨bpOutReg_toNat s, bpAccReg_toNat s, lowHalf_toNat s.pmC, highHalf_toNat s.pmC, lowHalf_toNat s.pmRes,
    highHalf_toNat s.pmRes, pmSym_toNat s, fun k => ?_, fun k => ?_, by decide⟩
  · exact (symLanes_lane (fun k => pmSym s ⟨k.val, by omega⟩) k).trans (pmSym_toNat s _)
  · refine (symLanes_lane (fun k => pmSym s ⟨k.val + 4, by omega⟩) k).trans ((pmSym_toNat s _).trans ?_)
    rw [show 7 - (k.val + 4) = 3 - k.val by omega]

/-- Settles O51: each element is a field of a register, so O49 and O50 give it back from the registers. -/
theorem noHiddenState : Obligations.NoHiddenState := by
  intro s t h
  obtain ⟨herr, hcode, -, hmode, -, hocnt, -, hcnt, -, hrdy, -⟩ := statusLayout s
  obtain ⟨herr', hcode', -, hmode', -, hocnt', -, hcnt', -, hrdy', -⟩ := statusLayout t
  obtain ⟨hout, hacc, hclo, hchi, hrlo, hrhi, -⟩ := dataRegisters s
  obtain ⟨hout', hacc', hclo', hchi', hrlo', hrhi', -⟩ := dataRegisters t
  simp only [h] at herr hcode hmode hocnt hcnt hrdy hout hacc hclo hchi hrlo hrhi
  have hlane0 := s.bpOut0.isLt
  have hlane0' := t.bpOut0.isLt
  exact ⟨⟨BpMode.toBits_inj (hmode'.symm.trans hmode), BitVec.eq_of_toNat_eq (by omega), hcnt'.symm.trans hcnt,
      BitVec.eq_of_toNat_eq (by omega), BitVec.eq_of_toNat_eq (by omega), Fin.ext (hocnt'.symm.trans hocnt)⟩,
    ⟨BitVec.eq_of_toNat_eq (by omega), BitVec.eq_of_toNat_eq (by omega),
      BitVec.ofBool_eq_iff_eq.1 (hrdy'.symm.trans hrdy)⟩,
    ⟨BitVec.ofBool_eq_iff_eq.1 (herr'.symm.trans herr), ErrCode.toBits_inj (hcode'.symm.trans hcode)⟩⟩

end Sys2Proof.Machine
end

section
/-! The rights of the port's accesses (R35, R36, R43). -/

namespace Sys2Proof.Machine

/-- `CMD` and the reserved indices read 0 (R36, R43). -/
theorem hostRead_cmd_or_reserved {idx : RegIdx} (s : State) (h : idx = 0x0#4 ∨ 0xA ≤ idx.toNat) :
    hostRead idx s = 0#32 := by
  obtain rfl | h := h
  · rfl
  · unfold hostRead
    split
    case h_11 => rfl
    all_goals omega

/-- No register shows the accesses that wait at the port. -/
theorem hostRead_setPending (idx : RegIdx) (s : State) (events : List Event) :
    hostRead idx { s with pending := events } = hostRead idx s := rfl

/-- Settles O10: what the port does with the oldest access of a ready block. -/
theorem portAccessRights : Obligations.PortAccessRights := by
  intro s idx v rest hr
  have hready : ({ s with pending := rest } : State).ready = true := hr
  refine ⟨fun hp => ?_, fun hi hp => ?_, fun hp => ?_, hostRead_cmd_or_reserved s⟩
  · rw [step_of_pending hp, performEvent_write_cmd hready]
  · rw [step_of_pending hp, performEvent_write_other hready hi]
  · rw [step_of_pending hp, performEvent_read hready, hostRead_setPending]

end Sys2Proof.Machine
end

section
/-! The block inside its port: what waits at the port and what it has returned affect no command, so an access of a
ready block has one step rule whatever stands around it (R50, R55). -/

namespace Sys2Proof.Machine

/-- The same block with the accesses `events` waiting at its port and the words `words` already returned. -/
def State.withPort (s : State) (events : List Event) (words : List Word) : State :=
  { s with pending := events, replies := words }

/-- The answer with its next state, if it is one, changed by `f`. -/
def mapNext (f : State → State) : Result → Result
  | .next s => .next (f s)
  | .fault r => .fault r
  | .refused r => .refused r

variable {s t : State} (events : List Event) (words : List Word)

theorem unlessErr_withPort {k k' : Result} (h : k' = mapNext (·.withPort events words) k) :
    unlessErr (s.withPort events words) k' = mapNext (·.withPort events words) (unlessErr s k) := by
  subst h
  cases he : s.err with
  | true => rw [unlessErr_of_err he, unlessErr_of_err (s := s.withPort events words) he]; rfl
  | false => rw [unlessErr_of_ok he, unlessErr_of_ok (s := s.withPort events words) he]

theorem withLiveBits_withPort {k k' : Result} (h : k' = mapNext (·.withPort events words) k) :
    withLiveBits (s.withPort events words) k' = mapNext (·.withPort events words) (withLiveBits s k) := by
  subst h
  by_cases hl : s.liveOk
  · rw [withLiveBits_of_ok hl, withLiveBits_of_ok (show (s.withPort events words).liveOk from hl)]
  · rw [withLiveBits_of_not_ok hl, withLiveBits_of_not_ok (show ¬ (s.withPort events words).liveOk from hl)]; rfl

/-- `apply_ite` asked for each branch apart: a branch commutes with `f` when both of its answers do. -/
theorem ite_eq_apply_ite {α β : Type} {c : Prop} [Decidable c] (f : α → β) {a b : α} {a' b' : β}
    (ha : a' = f a) (hb : b' = f b) : (if c then a' else b') = f (if c then a else b) := by
  rw [ha, hb, apply_ite f]

theorem packPush_withPort (b : Byte) (s : State) :
    packPush b (s.withPort events words) = (packPush b s).withPort events words :=
  ite_eq_apply_ite (fun u : State => u.withPort events words) rfl rfl

theorem unpackPush_withPort (v : Sym) (s : State) :
    unpackPush v (s.withPort events words) = (unpackPush v s).withPort events words :=
  ite_eq_apply_ite (fun u : State => u.withPort events words) rfl rfl

/-- No command reads or writes what is at the port. -/
theorem exec_withPort (i : Instr) (s : State) :
    exec i (s.withPort events words) = mapNext (·.withPort events words) (exec i s) := by
  cases i with
  | nop | softReset => rfl
  | bpStartPack | bpStartUnpack | pmInit | pmStepChar | pmFinal => exact unlessErr_withPort events words rfl
  | bpPackByte b =>
    exact unlessErr_withPort events words (ite_eq_apply_ite _ rfl
      (withLiveBits_withPort events words (congrArg _ (packPush_withPort events words b s))))
  | bpUnpackSym b =>
    refine unlessErr_withPort events words (ite_eq_apply_ite _ rfl ?_)
    cases symbolOperand b with
    | none => rfl
    | some v => exact withLiveBits_withPort events words (congrArg _ (unpackPush_withPort events words v s))
  | bpFlush =>
    exact unlessErr_withPort events words
      (ite_eq_apply_ite _ (withLiveBits_withPort events words (ite_eq_apply_ite _ rfl rfl)) rfl)
  | pmStep b =>
    refine unlessErr_withPort events words ?_
    cases symbolOperand b <;> rfl

theorem executeWord_withPort (w : Word) (s : State) :
    executeWord w (s.withPort events words) = mapNext (·.withPort events words) (executeWord w s) := by
  cases hd : decode w with
  | ok i => rw [executeWord_of_decode hd, executeWord_of_decode hd, exec_withPort]
  | error e =>
    rw [executeWord_of_illegal hd, executeWord_of_illegal hd]
    exact unlessErr_withPort events words rfl

theorem executeWord_replies {w : Word} (h : executeWord w s = .next t) : t.replies = s.replies := by
  have hself := executeWord_withPort s.pending s.replies w s
  rw [h] at hself
  have ht : t = t.withPort s.pending s.replies := Host.Outcome.next.inj (h.symm.trans hself)
  exact (congrArg State.replies ht).trans rfl

/-- A command leaves a ready block ready; `SOFT_RESET` is itself a reset (R191, R192). -/
theorem exec_ready {i : Instr} (hr : s.ready = true) (h : exec i s = .next t) : t.ready = true := by
  by_cases hi : i = .softReset
  · subst hi; cases h; rfl
  · obtain ⟨hready, -⟩ := (exec_effect h).samePort hi
    exact hready.trans hr

theorem executeWord_ready {w : Word} (hr : s.ready = true) (h : executeWord w s = .next t) : t.ready = true := by
  cases hd : decode w with
  | ok i => rw [executeWord_of_decode hd] at h; exact exec_ready hr h
  | error e =>
    rw [executeWord_of_illegal hd] at h
    obtain ⟨-, rfl⟩ | ⟨-, hk⟩ := unlessErr_next h
    · exact hr
    · cases hk; exact hr

theorem step_withPort_cons (e : Event) (s : State) :
    step (s.withPort (e :: events) words) = performEvent e (s.withPort events words) := step_of_pending rfl

/-- The step rule of a command: a write to `CMD` executes its word and leaves the rest of the port (R35, R55). -/
theorem step_write_cmd {w : Word} (hr : s.ready = true) (h : executeWord w s = .next t) :
    step (s.withPort (.write 0x0#4 w :: events) words) = .next (t.withPort events words) := by
  rw [step_withPort_cons, performEvent_write_cmd (s := s.withPort events words) hr, executeWord_withPort, h, mapNext]

/-- The step rule of a read: the word of the block's present state is appended to the replies (R35). -/
theorem step_read (hr : s.ready = true) (idx : RegIdx) :
    step (s.withPort (.read idx :: events) words) = .next (s.withPort events (words ++ [hostRead idx s])) := by
  rw [step_withPort_cons, performEvent_read (s := s.withPort events words) hr]
  rfl

section
variable {M : Host.Core} {a b : M.State}

/-- The step that answers a next state, taken off a run of any machine. -/
theorem coreRun_of_step (n : Nat) (h : M.step a = .next b) : M.run (n + 1) a = M.run n b := by
  rw [Host.Core.run, h]

theorem coreRun_one (a : M.State) : M.run 1 a = M.step a := by
  rw [Host.Core.run]
  cases M.step a <;> rfl

end

theorem run_of_step (n : Nat) (h : step s = .next t) : core.run (n + 1) s = core.run n t :=
  coreRun_of_step (M := core) n h

/-- A run of two steps answers what the second step does. -/
theorem run_two (h : step s = .next t) : core.run 2 s = step t :=
  (run_of_step 1 h).trans (coreRun_one (M := core) t)

/-- Settles O13: by induction on the number of steps, each of which is idle. -/
theorem idleBlockHoldsItsState : Obligations.IdleBlockHoldsItsState := by
  intro n s hp
  induction n with
  | zero => rfl
  | succ n ih => rw [run_of_step n (step_of_idle hp), ih]

end Sys2Proof.Machine
end

section
/-! The order of accesses (R60): two step rules in a row. -/

namespace Sys2Proof.Machine

/-- A state is itself with its own port. -/
theorem State.eq_withPort {s : State} {events : List Event} (h : s.pending = events) :
    s = s.withPort events s.replies := by
  subst h; rfl

/-- Settles O11: each pair of accesses is two steps, each at the state the step before left (R60). -/
theorem accessesInIssueOrder : Obligations.AccessesInIssueOrder := by
  intro s t w v idx idx' rest hr
  refine ⟨fun hp hw => ?_, fun hp hw => ?_, fun hp hw => ?_, fun hp => ?_⟩
  · rw [State.eq_withPort hp, run_two (step_write_cmd _ _ hr hw), step_read _ _ (executeWord_ready hr hw)]
    rfl
  · refine ⟨t.withPort rest (s.replies ++ [hostRead idx s]), ?_, rfl, rfl⟩
    rw [State.eq_withPort hp, run_two (step_read _ _ hr idx)]
    exact step_write_cmd _ _ hr hw
  · have hready : t.ready = true := executeWord_ready hr hw
    have ht : t.withPort rest s.replies = { t with pending := rest } := by
      rw [← executeWord_replies hw]; rfl
    rw [State.eq_withPort hp, run_two (step_write_cmd _ _ hr hw), step_withPort_cons, ht]
    exact performEvent_write_cmd (s := { t with pending := rest }) hready v
  · rw [State.eq_withPort hp, run_two (step_read _ _ hr idx), step_read _ _ hr idx', List.append_assoc]
    rfl

end Sys2Proof.Machine
end

section
/-! The encoder against the decoder (R70 to R75): the two fields of a command's word. -/

namespace Sys2Proof.Machine

theorem encode_toNat (i : Instr) : (encode i).toNat = i.opc.toNat * 2 ^ 8 + i.opnd.toNat := by
  have hc := i.opc.isLt
  have hd := i.opnd.isLt
  rw [encode, BitVec.toNat_setWidth, toNat_append_eq_add]
  omega

@[simp] theorem opcField_encode (i : Instr) : opcField (encode i) = i.opc := by
  have hc := i.opc.isLt
  have hd := i.opnd.isLt
  apply BitVec.eq_of_toNat_eq
  rw [opcField, toNat_extractLsb'_eq_div, encode_toNat]
  omega

@[simp] theorem opndField_encode (i : Instr) : opndField (encode i) = i.opnd := by
  have hd := i.opnd.isLt
  apply BitVec.eq_of_toNat_eq
  rw [opndField, toNat_extractLsb'_eq_div, encode_toNat]
  omega

/-- The opcodes of the map are distinct, so the fields of the word give the command back. -/
theorem decode_encode (i : Instr) : decode (encode i) = .ok i := by
  unfold decode
  rw [opcField_encode, opndField_encode]
  cases i <;> rfl

end Sys2Proof.Machine
end

section
/-! A host procedure at the port (R55, R60): a write to `CMD` and the reads of `BP_OUT` and `STATUS` are three steps,
and the two words read hold what the command emitted (R37, R38). -/

namespace Sys2Proof.Machine

/-- The lanes of `BP_OUT` are the two output elements (R38). -/
theorem bpOutReg_lanes (s : State) :
    (bpOutReg s).extractLsb' 0 8 = s.bpOut0 ∧ (bpOutReg s).extractLsb' 8 8 = s.bpOut1 := by
  have h0 := s.bpOut0.isLt
  have h1 := s.bpOut1.isLt
  constructor <;> apply BitVec.eq_of_toNat_eq <;> rw [toNat_extractLsb'_eq_div, bpOutReg_toNat] <;> omega

/-- The words of `BP_OUT` and `STATUS` give the host the values the last command emitted (R24, R37, R38). -/
theorem collectReplies_outStatus (s : State) (words : List Word) :
    collectReplies (hostRead 0x2#4 s :: hostRead 0x1#4 s :: words) = s.emitted ++ collectReplies words := by
  obtain ⟨hlane0, hlane1⟩ := bpOutReg_lanes s
  obtain ⟨-, -, -, -, -, hcount, -⟩ := statusLayout s
  rw [collectReplies, hcount, show hostRead 0x2#4 s = bpOutReg s from rfl, hlane0, hlane1, State.emitted]

theorem commandsWithReads_cons (i : Instr) (commands : List Instr) (rest : List Event) :
    commandsWithReads (i :: commands) ++ rest
      = .write 0x0#4 (encode i) :: .read 0x2#4 :: .read 0x1#4 :: (commandsWithReads commands ++ rest) := rfl

/-- One command of a host procedure is three steps of the port. -/
theorem run_commandWithReads {i : Instr} {s t : State} (hr : s.ready = true) (h : exec i s = .next t) (n : Nat)
    (events : List Event) (words : List Word) :
    core.run (n + 3) (s.withPort (.write 0x0#4 (encode i) :: .read 0x2#4 :: .read 0x1#4 :: events) words)
      = core.run n (t.withPort events (words ++ [hostRead 0x2#4 t, hostRead 0x1#4 t])) := by
  have hw : executeWord (encode i) s = .next t := (executeWord_of_decode (decode_encode i) s).trans h
  have ht := exec_ready hr h
  rw [run_of_step (n + 2) (step_write_cmd _ _ hr hw), run_of_step (n + 1) (step_read _ _ ht _),
    run_of_step n (step_read _ _ ht _), List.append_assoc]
  rfl

/-- The inversion of a collecting run: the first command answers a state from which the rest collects. -/
theorem runCollect_cons_inv {i : Instr} {commands : List Instr} {s u : State} {values : List Byte}
    (h : runCollect (i :: commands) s = some (u, values)) :
    ∃ t values', exec i s = .next t ∧ runCollect commands t = some (u, values') ∧ values = t.emitted ++ values' := by
  rw [runCollect] at h
  split at h
  next t hexec =>
    split at h
    next u' values' hrest => cases h; exact ⟨t, values', hexec, hrest, rfl⟩
    next => cases h
  all_goals cases h

/-- The refinement, for any accesses after the procedure's and any words read before: the port's run ends in the
commands' last state, and the words it adds give the values the commands emit. -/
theorem run_commandsWithReads (commands : List Instr) (rest : List Event) {s t : State} {values : List Byte}
    (words : List Word) (hr : s.ready = true) (h : runCollect commands s = some (t, values)) :
    ∃ read, core.run (3 * commands.length) (s.withPort (commandsWithReads commands ++ rest) words)
        = .next (t.withPort rest (words ++ read)) ∧ collectReplies read = values := by
  induction commands generalizing s values words with
  | nil =>
    cases h
    exact ⟨[], by rw [List.append_nil]; rfl, rfl⟩
  | cons i commands ih =>
    obtain ⟨s', values', hexec, hrest, rfl⟩ := runCollect_cons_inv h
    obtain ⟨read, hrun, hread⟩ := ih (words ++ [hostRead 0x2#4 s', hostRead 0x1#4 s']) (exec_ready hr hexec) hrest
    refine ⟨hostRead 0x2#4 s' :: hostRead 0x1#4 s' :: read, ?_, ?_⟩
    · rw [commandsWithReads_cons, List.length_cons, Nat.mul_succ, run_commandWithReads hr hexec, hrun,
        List.append_assoc]
      rfl
    · rw [collectReplies_outStatus, hread]

/-- Settles O14: the refinement from the state the procedure is issued in, with nothing read before. -/
theorem portRefinesCommands : Obligations.PortRefinesCommands := by
  intro commands s t values rest hr hnone hp hc
  obtain ⟨read, hrun, hread⟩ := run_commandsWithReads commands rest s.replies hr hc
  rw [← State.eq_withPort hp, hnone, List.nil_append] at hrun
  exact ⟨_, hrun, hread, rfl⟩

end Sys2Proof.Machine
end

section
/-! The decoder by its opcode field (R70 to R73): which opcode gives which command, which give none, and what of a word
the decoder reads. -/

namespace Sys2Proof

/-- The command with `b` for its operand byte, if it has one (R71). -/
def Instr.withOpnd (b : Byte) : Instr → Instr
  | .bpPackByte _ => .bpPackByte b
  | .bpUnpackSym _ => .bpUnpackSym b
  | .pmStep _ => .pmStep b
  | .pmStepChar _ => .pmStepChar b
  | i => i

end Sys2Proof

namespace Sys2Proof.Machine

variable {w v : Word} {i : Instr}

/-- Settles O1: the fields of the encoded word are the command's own, and each opcode is one row of the map. -/
theorem decodeOfEncode : Obligations.DecodeOfEncode := decode_encode

/-- A word with the opcode of a command decodes to that command, with the word's low byte as the operand. -/
theorem decode_of_opcField (h : opcField w = i.opc) : decode w = .ok (i.withOpnd (opndField w)) := by
  unfold decode
  rw [h]
  cases i <;> rfl

theorem opcField_of_decode (h : decode w = .ok i) : opcField w = i.opc := by
  unfold decode at h
  split at h
  case h_12 => cases h
  all_goals
    cases h
    exact BitVec.eq_of_toNat_eq ‹_›

/-- A word is illegal when its opcode is no command's, and then its error names the opcode (R73). -/
theorem decode_of_unmapped (h : ∀ j : Instr, opcField w ≠ j.opc) :
    decode w = .error (.illegalOpcode (opcField w)) := by
  cases hd : decode w with
  | ok j => exact absurd (opcField_of_decode hd) (h j)
  | error e =>
    unfold decode at hd
    split at hd
    case h_12 => rw [hd]
    all_goals cases hd

theorem decode_error_iff : (∃ e, decode w = .error e) ↔ ∀ j : Instr, opcField w ≠ j.opc := by
  refine ⟨fun ⟨e, he⟩ j hj => ?_, fun h => ⟨_, decode_of_unmapped h⟩⟩
  rw [decode_of_opcField hj] at he
  cases he

theorem opc_mem_mappedOpcodes (i : Instr) : i.opc.toNat ∈ mappedOpcodes := by
  cases i <;> simp [Instr.opc]

/-- The opcodes of the map are those of the commands (R72). -/
theorem mem_mappedOpcodes_iff {c : Byte} : c.toNat ∈ mappedOpcodes ↔ ∃ j : Instr, c = j.opc := by
  refine ⟨fun h => ?_, fun ⟨j, hj⟩ => hj ▸ opc_mem_mappedOpcodes j⟩
  have hrow : ∀ n ∈ mappedOpcodes, ∃ j : Instr, j.opc.toNat = n := by
    simp only [List.forall_mem_cons]
    exact ⟨⟨.nop, rfl⟩, ⟨.softReset, rfl⟩, ⟨.bpStartPack, rfl⟩, ⟨.bpStartUnpack, rfl⟩, ⟨.bpPackByte 0#8, rfl⟩,
      ⟨.bpUnpackSym 0#8, rfl⟩, ⟨.bpFlush, rfl⟩, ⟨.pmInit, rfl⟩, ⟨.pmStep 0#8, rfl⟩, ⟨.pmStepChar 0#8, rfl⟩,
      ⟨.pmFinal, rfl⟩, by simp⟩
  obtain ⟨j, hj⟩ := hrow _ h
  exact ⟨j, BitVec.eq_of_toNat_eq hj.symm⟩

/-- A word is illegal exactly when its opcode is outside the map (R73). -/
theorem decode_error_iff_unmapped : (∃ e, decode w = .error e) ↔ (opcField w).toNat ∉ mappedOpcodes := by
  rw [decode_error_iff, mem_mappedOpcodes_iff, not_exists]

theorem opcodeMask_getElem : ∀ k : Fin 32, (0x0000FF00#32)[k] = (decide (8 ≤ k.val) && decide (k.val < 16)) := by
  decide

/-- The mask of R72 leaves the opcode field at its place. -/
theorem masked_eq_opcField (w : Word) : w &&& 0x0000FF00#32 = (opcField w).setWidth 32 <<< 8 := by
  ext k hk
  have hmask : (0x0000FF00#32)[k] = _ := opcodeMask_getElem ⟨k, hk⟩
  obtain h8 | h8 := Nat.lt_or_ge k 8
  · simp [hmask, h8]
  · have hfield : k - 8 < 8 ↔ k < 16 := by omega
    simp [hmask, h8, hfield, opcField, Nat.add_sub_cancel' h8, BitVec.getLsbD_eq_getElem hk, Bool.and_comm]

theorem shiftedOpcode_inj {c d : Byte} (h : c.setWidth 32 <<< 8 = d.setWidth 32 <<< 8) : c = d := by
  have hc := c.isLt
  have hd := d.isLt
  have hn := congrArg BitVec.toNat h
  simp only [BitVec.toNat_shiftLeft, BitVec.toNat_setWidth, Nat.shiftLeft_eq] at hn
  exact BitVec.eq_of_toNat_eq (by omega)

/-- The matching condition of R72 compares the opcode field. -/
theorem masked_eq_iff_opcField {c : Byte} : w &&& 0x0000FF00#32 = c.setWidth 32 <<< 8 ↔ opcField w = c := by
  rw [masked_eq_opcField]
  exact ⟨shiftedOpcode_inj, fun h => h ▸ rfl⟩

theorem decode_of_masked (h : w &&& 0x0000FF00#32 = i.opc.setWidth 32 <<< 8) :
    decode w = .ok (i.withOpnd (w.setWidth 8)) := by
  rw [BitVec.setWidth_eq_extractLsb' (by decide)]
  exact decode_of_opcField (masked_eq_iff_opcField.1 h)

/-- Settles O3: the matching condition is equality of the opcode field, and each row is `decode_of_masked` of its
command. -/
theorem decodeIsOpcodeLookup : Obligations.DecodeIsOpcodeLookup := by
  intro w i
  exact ⟨fun h => masked_eq_iff_opcField.2 (opcField_of_decode h),
    decode_of_masked (i := .nop), decode_of_masked (i := .softReset), decode_of_masked (i := .bpStartPack),
    decode_of_masked (i := .bpStartUnpack), decode_of_masked (i := .bpPackByte 0#8),
    decode_of_masked (i := .bpUnpackSym 0#8), decode_of_masked (i := .bpFlush), decode_of_masked (i := .pmInit),
    decode_of_masked (i := .pmStep 0#8), decode_of_masked (i := .pmStepChar 0#8), decode_of_masked (i := .pmFinal),
    fun h => decode_error_iff.2 fun j hj => h j (masked_eq_iff_opcField.2 hj)⟩

/-- Settles O4: the illegal opcodes are those outside the map, and the port takes their error under the gate. -/
theorem illegalOpcodes : Obligations.IllegalOpcodes := by
  refine ⟨fun w => decode_error_iff_unmapped, fun k => ?_, by decide +kernel, fun w s h => ?_⟩
  · simp only [mappedOpcodes, List.mem_cons, List.not_mem_nil, or_false]
    omega
  · obtain ⟨e, he⟩ := decode_error_iff_unmapped.2 h
    rw [executeWord_of_illegal he, raiseError_eq, unlessErr]

theorem decode_congr (hc : opcField w = opcField v) (hd : opndField w = opndField v) : decode w = decode v := by
  rw [decode, decode, hc, hd]

theorem withOpnd_of_no_operand (h : i.opc.toNat ∉ [0x12, 0x13, 0x21, 0x22]) (b : Byte) : i.withOpnd b = i := by
  cases i with
  | bpPackByte | bpUnpackSym | pmStep | pmStepChar => exact absurd (by simp [Instr.opc]) h
  | _ => rfl

/-- Words with one opcode, of a command without an operand or of none, decode alike. -/
theorem decode_congr_of_no_operand (hc : opcField w = opcField v)
    (h : (opcField w).toNat ∉ [0x12, 0x13, 0x21, 0x22]) : decode w = decode v := by
  by_cases hm : ∃ j : Instr, opcField w = j.opc
  · obtain ⟨j, hj⟩ := hm
    rw [hj] at h
    rw [decode_of_opcField hj, decode_of_opcField (hc.symm.trans hj), withOpnd_of_no_operand h,
      withOpnd_of_no_operand h]
  · rw [not_exists] at hm
    rw [decode_of_unmapped hm, decode_of_unmapped (hc ▸ hm), hc]

theorem opcField_lowHalf (w : Word) : (w.extractLsb' 0 16).extractLsb' 8 8 = opcField w := by
  apply BitVec.eq_of_toNat_eq
  simp only [opcField, toNat_extractLsb'_eq_div]
  omega

theorem opndField_lowHalf (w : Word) : (w.extractLsb' 0 16).extractLsb' 0 8 = opndField w := by
  apply BitVec.eq_of_toNat_eq
  simp only [opndField, toNat_extractLsb'_eq_div]
  omega

/-- Settles O5: both fields lie in the low half of the word. -/
theorem ignoredFieldsDoNotDecode : Obligations.IgnoredFieldsDoNotDecode := by
  intro w v
  refine ⟨fun h => decode_congr ?_ ?_, decode_congr_of_no_operand⟩
  · rw [← opcField_lowHalf w, h, opcField_lowHalf]
  · rw [← opndField_lowHalf w, h, opndField_lowHalf]

/-- Settles O2: the word of each command is its opcode and its operand, side by side. -/
theorem encodedWords : Obligations.EncodedWords := by
  refine ⟨rfl, rfl, rfl, rfl, fun b => ?_, fun b => ?_, rfl, rfl, fun b => ?_, fun b => ?_, rfl⟩
  all_goals simp [encode_toNat, Instr.opc, Instr.opnd]

/-- Settles O6, by evaluating the decoder on the eight words. -/
theorem decodeWordsOfTheSpec : Obligations.DecodeWordsOfTheSpec := by
  unfold Obligations.DecodeWordsOfTheSpec
  decide

/-- In the error state a word whose opcode is not that of `SOFT_RESET` is ignored (R172). -/
theorem executeWord_of_err {s : State} (he : s.err = true) (hw : opcField w ≠ 0x01#8) :
    executeWord w s = .next s := by
  cases hd : decode w with
  | error e => rw [executeWord_of_illegal hd, unlessErr_of_err he]
  | ok i =>
    rw [executeWord_of_decode hd]
    refine exec_of_err he fun hi => hw ?_
    rw [opcField_of_decode hd, hi]
    rfl

/-- Settles O9: the step executes the word, and the word's decoding says what that does. -/
theorem stepRunsDecodedCommand : Obligations.StepRunsDecodedCommand := by
  intro s w rest hr hp
  have hstep : step s = executeWord w { s with pending := rest } := by
    rw [step_of_pending hp, performEvent_write_cmd (s := { s with pending := rest }) hr]
  have hexec : ∀ i, decode w = .ok i → step s = exec i { s with pending := rest } := fun i hd => by
    rw [hstep, executeWord_of_decode hd]
  refine ⟨fun he hw => hstep.trans (executeWord_of_err he hw), fun _ => hexec, fun he ⟨e, hd⟩ => ?_, hexec⟩
  rw [hstep, executeWord_of_illegal hd, unlessErr_of_ok (s := { s with pending := rest }) he, raiseError_eq]

end Sys2Proof.Machine
end

section
/-! Lists under an operation that may fail: what `mapM` answers in `Except`, from what the operation answers. -/

namespace Sys2Proof.Machine

variable {α β ε : Type} {f : α → Except ε β}

theorem mapM_cons_ok_inv {x : α} {xs : List α} {ys : List β} (h : (x :: xs).mapM f = .ok ys) :
    ∃ y ys', f x = .ok y ∧ xs.mapM f = .ok ys' ∧ ys = y :: ys' := by
  rw [List.mapM_cons] at h
  cases hx : f x with
  | error e => rw [hx] at h; cases h
  | ok y =>
    cases hxs : xs.mapM f with
    | error e => rw [hx, hxs] at h; cases h
    | ok ys' => rw [hx, hxs] at h; cases h; exact ⟨y, ys', rfl, rfl, rfl⟩

/-- Every value of a list that `mapM` answers is one that `f` answers. -/
theorem exists_of_mem_mapM {xs : List α} {ys : List β} (h : xs.mapM f = .ok ys) {y : β} (hy : y ∈ ys) :
    ∃ x, f x = .ok y := by
  induction xs generalizing ys with
  | nil => cases h; cases hy
  | cons x xs ih =>
    obtain ⟨y', ys', hx, hxs, rfl⟩ := mapM_cons_ok_inv h
    obtain rfl | hy := List.mem_cons.1 hy
    · exact ⟨x, hx⟩
    · exact ih hxs hy

/-- `mapM` of an operation that succeeds on every element is `map`. -/
theorem mapM_eq_ok_map {g : α → β} {xs : List α} (h : ∀ x ∈ xs, f x = .ok (g x)) :
    xs.mapM f = .ok (xs.map g) := by
  induction xs with
  | nil => rfl
  | cons x xs ih =>
    rw [List.forall_mem_cons] at h
    rw [List.mapM_cons, h.1, ih h.2]
    rfl

/-- `mapM` undoes `map` when the operation undoes each value. -/
theorem mapM_map_eq_ok {g : β → α} {ys : List β} (h : ∀ y ∈ ys, f (g y) = .ok y) : (ys.map g).mapM f = .ok ys := by
  rw [List.mapM_map, mapM_eq_ok_map (f := f ∘ g) (g := id) h, List.map_id]

theorem exists_of_map_ok {g : β → α} {k : Except ε β} {y : α} (h : k.map g = .ok y) : ∃ x, k = .ok x ∧ y = g x := by
  cases k with
  | error e => cases h
  | ok x => cases h; exact ⟨x, rfl, rfl⟩

end Sys2Proof.Machine
end

section
/-! What the assembler accepts is well formed (R75), and a well-formed command never newly leaves `OPERAND_RANGE`. -/

namespace Sys2Proof.Machine

variable {s t : State} {i : Instr}

/-- A command whose operand check fails is one no assembler writes (R75, R170). -/
theorem CommandFails.not_wellFormed (h : CommandFails s i .operandRange) : i.wellFormed = false := by
  cases h with
  | unpackRange b _ hb | stepRange b hb => exact decide_eq_false (Nat.not_le.2 hb)

theorem exec_errCode_operandRange (hi : i.wellFormed = true) (h : exec i s = .next t)
    (ht : t.errCode = .operandRange) : s.errCode = .operandRange := by
  by_cases hreset : i = .softReset
  · subst hreset; cases h; cases ht
  by_cases hsame : s.SameError t
  · exact hsame.2.symm.trans ht
  · obtain ⟨-, code, hf, rfl⟩ := (exec_effect h).error_changed hreset hsame
    cases ht
    rw [hf.not_wellFormed] at hi
    cases hi

/-- The commands a mnemonic stands for are well formed, those with a symbol operand for operands up to 31. -/
def AsmShape.MakesWellFormed : AsmShape → Prop
  | .fixed commands => ∀ i ∈ commands, i.wellFormed = true
  | .byte mk | .byteList mk | .text mk => ∀ b, (mk b).wellFormed = true
  | .symbol mk | .symbolList mk => ∀ b : Byte, b.toNat ≤ 31 → (mk b).wellFormed = true

theorem asmTable_makesWellFormed : ∀ row ∈ asmTable, row.2.MakesWellFormed := by
  have hsymbol : ∀ b : Byte, b.toNat ≤ 31 → isSymbolOperand b = true := fun b hb => decide_eq_true hb
  simp only [asmTable, List.forall_mem_cons, AsmShape.MakesWellFormed]
  exact ⟨by decide, by decide, by decide, by decide, fun b => rfl, hsymbol, by decide, by decide, hsymbol, fun b => rfl,
    by decide, by decide, by decide, fun b => rfl, hsymbol, fun b => rfl, hsymbol, by simp⟩

theorem asmShape_makesWellFormed {name : List Char} {shape : AsmShape} (h : asmShape name = some shape) :
    shape.MakesWellFormed := by
  obtain ⟨row, hrow, rfl⟩ := Option.map_eq_some_iff.1 h
  exact asmTable_makesWellFormed row (List.mem_of_find?_eq_some hrow)

/-- A symbol operand the assembler accepts is at most 31 (R75). -/
theorem asSymbol_le {op : AsmOperand} {b : Byte} (h : op.asSymbol = .ok b) : b.toNat ≤ 31 := by
  cases op with
  | quoted c => cases h
  | number n =>
    rw [AsmOperand.asSymbol] at h
    split at h
    next hn => cases h; exact (Nat.mod_le n (2 ^ 8)).trans hn
    next => cases h

theorem assembleShape_wellFormed {shape : AsmShape} {rest : List Char} {commands : List Instr}
    (hs : shape.MakesWellFormed) (h : assembleShape shape rest = .ok commands) (hi : i ∈ commands) :
    i.wellFormed = true := by
  unfold assembleShape at h
  cases shape with
  | fixed cmds =>
    dsimp only at h
    split at h
    · cases h; exact hs i hi
    · cases h
  | byte mk =>
    dsimp only at h
    split at h
    next op _ =>
      obtain ⟨b, -, rfl⟩ := exists_of_map_ok h
      rw [List.mem_singleton.1 hi]
      exact hs b
    next => cases h
  | symbol mk =>
    dsimp only at h
    split at h
    next op _ =>
      obtain ⟨b, hb, rfl⟩ := exists_of_map_ok h
      rw [List.mem_singleton.1 hi]
      exact hs b (asSymbol_le hb)
    next => cases h
  | byteList mk | text mk =>
    dsimp only at h
    split at h
    · obtain ⟨bytes, -, rfl⟩ := exists_of_map_ok h
      obtain ⟨b, -, rfl⟩ := List.mem_map.1 hi
      exact hs b
    · cases h
  | symbolList mk =>
    dsimp only at h
    split at h
    · obtain ⟨bytes, hbytes, rfl⟩ := exists_of_map_ok h
      obtain ⟨b, hb, rfl⟩ := List.mem_map.1 hi
      obtain ⟨op, hop⟩ := exists_of_mem_mapM hbytes hb
      exact hs b (asSymbol_le hop)
    · cases h

theorem assembleCommands_wellFormed {line : List Char} {commands : List Instr}
    (h : assembleCommands line = .ok commands) (hi : i ∈ commands) : i.wellFormed = true := by
  unfold assembleCommands at h
  split at h
  · cases h; cases hi
  · dsimp only at h
    split at h
    next shape hshape => exact assembleShape_wellFormed (asmShape_makesWellFormed hshape) h hi
    next => cases h

/-- Settles O7: accepted commands are well formed, and such commands pass their operand checks. -/
theorem assembledCommandsStayInRange : Obligations.AssembledCommandsStayInRange := by
  intro line commands h i hi
  have hwf := assembleCommands_wellFormed h hi
  exact ⟨hwf, fun s t => exec_errCode_operandRange hwf⟩

end Sys2Proof.Machine
end

section
/-! Reading back what is written (R75, R76): a mnemonic and the rest of its line, a string, a list of hexadecimal
operands. -/

namespace Sys2Proof.Machine

/-! ### The mnemonic -/

/-- A character that ends a mnemonic: a blank, a tab or the semicolon of a comment. -/
def endsMnemonic (c : Char) : Bool := isBlank c || c == ';'

/-- The text begins at the end of a mnemonic: it is empty, or a character that ends one comes first. -/
def StartsAfterMnemonic (rest : List Char) : Prop := ∀ c ∈ rest.head?, endsMnemonic c = true

theorem atLineEnd_cons_of_not_ends {c : Char} (h : endsMnemonic c = false) (cs : List Char) :
    atLineEnd (c :: cs) = false := by
  obtain ⟨hb, hs⟩ := Bool.or_eq_false_iff.1 h
  simp [atLineEnd, skipBlanks, hb, hs]

theorem span_mnemonic {name rest : List Char} (hn : ∀ c ∈ name, endsMnemonic c = false)
    (hr : StartsAfterMnemonic rest) :
    ((name ++ rest).takeWhile fun c => !endsMnemonic c) = name
      ∧ ((name ++ rest).dropWhile fun c => !endsMnemonic c) = rest := by
  have hname : ∀ c ∈ name, (!endsMnemonic c) = true := fun c hc => by simp [hn c hc]
  rw [List.takeWhile_append_of_pos hname, List.dropWhile_append_of_pos hname]
  cases rest with
  | nil => simp
  | cons c cs => simp [hr c rfl]

theorem asmTable_mnemonics : ∀ row ∈ asmTable, row.1 ≠ [] ∧ row.1.any endsMnemonic = false := by decide

/-- A mnemonic of the table is not empty and holds no character that ends one. -/
theorem asmShape_mnemonic {name : List Char} {shape : AsmShape} (h : asmShape name = some shape) :
    name ≠ [] ∧ ∀ c ∈ name, endsMnemonic c = false := by
  obtain ⟨row, hrow, -⟩ := Option.map_eq_some_iff.1 h
  have hname := List.find?_some hrow
  obtain rfl : row.1 = name := beq_iff_eq.1 hname
  obtain ⟨hne, hends⟩ := asmTable_mnemonics row (List.mem_of_find?_eq_some hrow)
  exact ⟨hne, fun c hc => Bool.eq_false_iff.2 (List.any_eq_false.1 hends c hc)⟩

/-- A line that begins with a mnemonic stands for what the mnemonic makes of the rest. -/
theorem assembleCommands_mnemonic {name rest : List Char} {shape : AsmShape} (hshape : asmShape name = some shape)
    (hr : StartsAfterMnemonic rest) : assembleCommands (name ++ rest) = assembleShape shape rest := by
  obtain ⟨hne, hn⟩ := asmShape_mnemonic hshape
  obtain ⟨htake, hdrop⟩ := span_mnemonic hn hr
  obtain ⟨c, cs, rfl⟩ := List.exists_cons_of_ne_nil hne
  have hc : endsMnemonic c = false := hn c List.mem_cons_self
  have hstart : skipBlanks (c :: cs ++ rest) = c :: cs ++ rest := by
    simp [skipBlanks, (Bool.or_eq_false_iff.1 hc).1]
  have hline : atLineEnd (c :: cs ++ rest) = false := atLineEnd_cons_of_not_ends hc (cs ++ rest)
  have htake' : ((skipBlanks (c :: cs ++ rest)).takeWhile fun c => !(isBlank c || c == ';')) = c :: cs := by
    rw [hstart]; exact htake
  have hdrop' : ((skipBlanks (c :: cs ++ rest)).dropWhile fun c => !(isBlank c || c == ';')) = rest := by
    rw [hstart]; exact hdrop
  simp only [assembleCommands, hline, htake', hdrop', hshape]
  rfl

/-! ### A string -/

theorem readText_quoted {chars : List Char} (h : ∀ c ∈ chars, c.toNat ≠ 34) :
    readText (' ' :: Char.ofNat 34 :: (chars ++ [Char.ofNat 34])) = some chars := by
  have hpos : ∀ c ∈ chars, (c.toNat != 34) = true := fun c hc => bne_iff_ne.2 (h c hc)
  have hskip : skipBlanks (' ' :: Char.ofNat 34 :: (chars ++ [Char.ofNat 34]))
      = Char.ofNat 34 :: (chars ++ [Char.ofNat 34]) := rfl
  have htake : ((chars ++ [Char.ofNat 34]).takeWhile fun c => c.toNat != 34) = chars := by
    rw [List.takeWhile_append_of_pos hpos]
    exact List.append_nil chars
  have hdrop : ((chars ++ [Char.ofNat 34]).dropWhile fun c => c.toNat != 34) = [Char.ofNat 34] :=
    List.dropWhile_append_of_pos hpos
  simp only [readText, hskip, hdrop, htake]
  rfl

theorem asciiCode_of_le {c : Char} (h : c.toNat ≤ 127) : asciiCode c = .ok (BitVec.ofNat 8 c.toNat) := if_pos h

theorem assembleShape_text {mk : Byte → Instr} {chars : List Char} (h : ∀ c ∈ chars, c.toNat ≤ 127 ∧ c.toNat ≠ 34) :
    assembleShape (.text mk) (' ' :: Char.ofNat 34 :: (chars ++ [Char.ofNat 34]))
      = .ok (chars.map fun c => mk (BitVec.ofNat 8 c.toNat)) := by
  have hcodes : chars.mapM asciiCode = .ok (chars.map fun c => BitVec.ofNat 8 c.toNat) :=
    mapM_eq_ok_map fun c hc => asciiCode_of_le (h c hc).1
  simp only [assembleShape, readText_quoted fun c hc => (h c hc).2, hcodes, Except.map, List.map_map]
  rfl

/-! ### A list of operands -/

theorem hexDigit_hexChar : ∀ n : Fin 16, hexDigit (hexChar n) = some n.val := by decide

/-- No hexadecimal digit comes first. -/
def StartsAfterDigits (rest : List Char) : Prop := ∀ c ∈ rest.head?, hexDigit c = none

theorem readDigits_end {rest : List Char} (h : StartsAfterDigits rest) (base acc : Nat) :
    readDigits hexDigit base acc rest = (acc, rest) := by
  cases rest with
  | nil => rfl
  | cons c cs => rw [readDigits, h c rfl]

/-- A written number, with the blank before it, reads back as the number. -/
theorem readOperand_writeNumber (b : Byte) {rest : List Char} (h : StartsAfterDigits rest) :
    readOperand (' ' :: writeNumber b ++ rest) = some (.number b.toNat, rest) := by
  have hb := b.isLt
  have hhigh := hexDigit_hexChar ⟨b.toNat / 16, by omega⟩
  have hlow := hexDigit_hexChar ⟨b.toNat % 16, by omega⟩
  have hskip : skipBlanks (' ' :: writeNumber b ++ rest)
      = '0' :: 'x' :: hexChar (b.toNat / 16) :: hexChar (b.toNat % 16) :: rest := rfl
  simp only [readOperand, hskip, hhigh, readDigits, hlow, readDigits_end h, Nat.div_add_mod']

theorem readOperands_last {cs : List Char} {op : AsmOperand} (h : readOperand cs = some (op, [])) (fuel : Nat) :
    readOperands (fuel + 1) cs = some [op] := by
  rw [readOperands, h]
  rfl

theorem readOperands_comma {cs rest : List Char} {op : AsmOperand} (h : readOperand cs = some (op, ',' :: rest))
    (fuel : Nat) : readOperands (fuel + 1) cs = (readOperands fuel rest).map (op :: ·) := by
  rw [readOperands, h]
  rfl

/-- A written operand list reads back as its numbers, in order. -/
theorem readOperands_writeOperands {bytes : List Byte} (hne : bytes ≠ []) {fuel : Nat} (hf : bytes.length ≤ fuel) :
    readOperands fuel (writeOperands bytes) = some (bytes.map fun b => .number b.toNat) := by
  induction bytes generalizing fuel with
  | nil => exact absurd rfl hne
  | cons b bytes ih =>
    cases fuel with
    | zero => simp at hf
    | succ fuel =>
      cases bytes with
      | nil => exact readOperands_last (readOperand_writeNumber b fun c hc => by cases hc) fuel
      | cons b' bytes =>
        have hfirst : readOperand (writeOperands (b :: b' :: bytes))
            = some (.number b.toNat, ',' :: writeOperands (b' :: bytes)) :=
          readOperand_writeNumber b fun c hc => by cases hc; decide
        rw [readOperands_comma hfirst, ih (by simp) (Nat.le_of_succ_le_succ hf)]
        rfl

theorem length_le_length_writeOperands (bytes : List Byte) : bytes.length ≤ (writeOperands bytes).length := by
  fun_induction writeOperands bytes with
  | case1 => simp
  | case2 b => simp
  | case3 b rest hrest ih => simp only [List.length_append, List.length_cons]; omega

theorem writeOperands_startsAfterMnemonic (bytes : List Byte) : StartsAfterMnemonic (writeOperands bytes) := by
  intro c hc
  match bytes with
  | [] => cases hc
  | [b] | b :: b' :: rest => cases hc; decide

theorem asByte_number (b : Byte) : (AsmOperand.number b.toNat).asByte = .ok b := by
  have hb := b.isLt
  rw [AsmOperand.asByte, if_pos (by omega), BitVec.ofNat_toNat, BitVec.setWidth_eq]

theorem asSymbol_number {b : Byte} (h : b.toNat ≤ 31) : (AsmOperand.number b.toNat).asSymbol = .ok b := by
  rw [AsmOperand.asSymbol, if_pos h, BitVec.ofNat_toNat, BitVec.setWidth_eq]

section
variable {mk : Byte → Instr} {bytes : List Byte} (hne : bytes ≠ [])
include hne

theorem assembleShape_byteList :
    assembleShape (.byteList mk) (writeOperands bytes) = .ok (bytes.map mk) := by
  have hread := readOperands_writeOperands hne ((length_le_length_writeOperands bytes).trans (Nat.le_succ _))
  have hbytes : (bytes.map fun b => AsmOperand.number b.toNat).mapM AsmOperand.asByte = .ok bytes :=
    mapM_map_eq_ok fun b _ => asByte_number b
  simp only [assembleShape, hread, hbytes, Except.map]

theorem assembleShape_symbolList (hle : ∀ b ∈ bytes, b.toNat ≤ 31) :
    assembleShape (.symbolList mk) (writeOperands bytes) = .ok (bytes.map mk) := by
  have hread := readOperands_writeOperands hne ((length_le_length_writeOperands bytes).trans (Nat.le_succ _))
  have hsymbols : (bytes.map fun b => AsmOperand.number b.toNat).mapM AsmOperand.asSymbol = .ok bytes :=
    mapM_map_eq_ok fun b hb => asSymbol_number (hle b hb)
  simp only [assembleShape, hread, hsymbols, Except.map]

end

/-- A line of a symbol-list mnemonic with symbols for its operands stands for one command per symbol. -/
theorem assembleCommands_symbols {name : List Char} {mk : Byte → Instr} {symbols : List Sym}
    (hshape : asmShape name = some (.symbolList mk)) (hne : symbols ≠ []) :
    assembleCommands (name ++ writeOperands (symbols.map symbolOpnd)) = .ok (symbols.map fun v => mk (symbolOpnd v)) := by
  have hle : ∀ b ∈ symbols.map symbolOpnd, b.toNat ≤ 31 := List.forall_mem_map.2 fun v _ => setWidth_sym_le v
  rw [assembleCommands_mnemonic hshape (writeOperands_startsAfterMnemonic _),
    assembleShape_symbolList (by simpa using hne) hle, List.map_map]
  rfl

/-- Settles O8: each line is a mnemonic of the table and what it writes, which reads back as it was written. -/
theorem pseudoCommandsExpand : Obligations.PseudoCommandsExpand := by
  refine ⟨fun chars h => ?_, by decide, by decide,
    fun symbols hne => assembleCommands_symbols rfl hne, fun bytes hne => ?_,
    fun symbols hne => assembleCommands_symbols rfl hne⟩
  · have hstart : StartsAfterMnemonic (' ' :: Char.ofNat 34 :: (chars ++ [Char.ofNat 34])) := fun c hc => by
      cases hc; decide
    exact (assembleCommands_mnemonic (name := ['P', 'M', '_', 'S', 'T', 'R']) rfl hstart).trans
      (assembleShape_text h)
  · rw [assembleCommands_mnemonic rfl (writeOperands_startsAfterMnemonic bytes)]
    exact assembleShape_byteList hne

end Sys2Proof.Machine
end

section
/-! A push and a flush in numbers (R100, R104, R105, R107): what the lanes and the live bits are, read off the transient
word, and the effects of the commands of the BitPacker, each on the branch its rule names. -/

namespace Sys2Proof.Machine

variable {s : State}

/-! ### Windows of the transient word -/

theorem extractLsb'_eq_ofNat {n : Nat} (t : BitVec n) (i len : Nat) :
    t.extractLsb' i len = BitVec.ofNat len (t.toNat / 2 ^ i) := by
  apply BitVec.eq_of_toNat_eq
  rw [toNat_extractLsb'_eq_div, BitVec.toNat_ofNat]

/-- A symbol in an 8-bit lane. -/
theorem lane_of_symbol (x : Nat) : (BitVec.ofNat 5 x).setWidth 8 = BitVec.ofNat 8 (x % 32) := by
  apply BitVec.eq_of_toNat_eq
  simp only [BitVec.toNat_setWidth, BitVec.toNat_ofNat]

/-- `keepLive` in numbers: the low `k` bits of the word and their count. -/
theorem State.keepLive_eq (s : State) (t : BitVec 12) {k : Nat} (hk : k ≤ 7) :
    s.keepLive t k = { s with bpAcc := BitVec.ofNat 7 (t.toNat % 2 ^ k), bpCnt := BitVec.ofNat 3 k } := by
  obtain ⟨hacc, -⟩ := s.keepLive_toNat t hk
  rw [← hacc, BitVec.ofNat_toNat, BitVec.setWidth_eq]
  rfl

/-! ### The transient word -/

theorem State.liveOk.acc_lt (hl : s.liveOk) {c : Nat} (hc : s.bpCnt.toNat ≤ c) : s.bpAcc.toNat < 2 ^ c :=
  hl.1.trans_le (Nat.pow_le_pow_right (by decide) hc)

/-- The word of a byte push (R104). -/
theorem packWord_toNat (hl : s.liveOk) (hm : s.bpMode = .pack) (b : Byte) :
    (pushWord s.bpAcc 8 (b.setWidth 12)).toNat = s.bpAcc.toNat * 256 + b.toNat := by
  have hacc := hl.acc_lt (hl.2 hm)
  have hb : (b.setWidth 12).toNat = b.toNat := BitVec.toNat_setWidth_of_le (by decide)
  rw [pushWord_toNat (hb ▸ b.isLt) (by omega), hb]
  rfl

/-- The word of a symbol push (R105). -/
theorem unpackWord_toNat (s : State) (v : Sym) :
    (pushWord s.bpAcc 5 (v.setWidth 12)).toNat = s.bpAcc.toNat * 32 + v.toNat := by
  have hacc := s.bpAcc.isLt
  have hv : (v.setWidth 12).toNat = v.toNat := BitVec.toNat_setWidth_of_le (by decide)
  rw [pushWord_toNat (hv ▸ v.isLt) (by omega), hv]
  rfl

/-- The word of a push has no bit above the live bits and the operand's `w` bits (R100). -/
theorem pushWord_lt {acc c v w : Nat} (ha : acc < 2 ^ c) (hv : v < 2 ^ w) : acc * 2 ^ w + v < 2 ^ (c + w) := by
  calc acc * 2 ^ w + v < (acc + 1) * 2 ^ w := by rw [Nat.add_mul, Nat.one_mul]; omega
    _ ≤ 2 ^ c * 2 ^ w := Nat.mul_le_mul_right _ ha
    _ = 2 ^ (c + w) := (Nat.pow_add 2 c w).symm

/-! ### The two branches of a push -/

theorem packPush_two (b : Byte) (hn : 10 ≤ s.bpCnt.toNat + 8) :
    packPush b s =
      let t := pushWord s.bpAcc 8 (b.setWidth 12)
      let n := s.bpCnt.toNat + 8
      (s.emit ((t.extractLsb' (n - 5) 5).setWidth 8) ((t.extractLsb' (n - 10) 5).setWidth 8) 2).keepLive t (n - 10) :=
  if_pos hn

theorem packPush_one (b : Byte) (hn : s.bpCnt.toNat + 8 < 10) :
    packPush b s =
      let t := pushWord s.bpAcc 8 (b.setWidth 12)
      let n := s.bpCnt.toNat + 8
      (s.emit ((t.extractLsb' (n - 5) 5).setWidth 8) 0#8 1).keepLive t (n - 5) :=
  if_neg (Nat.not_le.2 hn)

theorem unpackPush_one (v : Sym) (hn : 8 ≤ s.bpCnt.toNat + 5) :
    unpackPush v s =
      let t := pushWord s.bpAcc 5 (v.setWidth 12)
      let n := s.bpCnt.toNat + 5
      (s.emit (t.extractLsb' (n - 8) 8) 0#8 1).keepLive t (n - 8) :=
  if_pos hn

theorem unpackPush_none (v : Sym) (hn : s.bpCnt.toNat + 5 < 8) :
    unpackPush v s = (s.emit 0#8 0#8 0).keepLive (pushWord s.bpAcc 5 (v.setWidth 12)) (s.bpCnt.toNat + 5) :=
  if_neg (Nat.not_le.2 hn)

/-! ### The commands -/

theorem exec_bpStart (he : s.err = false) :
    exec .bpStartPack s = .next ((s.openStream .pack).emit 0#8 0#8 0)
      ∧ exec .bpStartUnpack s = .next ((s.openStream .unpack).emit 0#8 0#8 0) :=
  ⟨unlessErr_of_ok he _, unlessErr_of_ok he _⟩

theorem exec_bpPackByte_conflict (he : s.err = false) (hm : s.bpMode ≠ .pack) (b : Byte) :
    exec (.bpPackByte b) s = raiseError .modeConflict s := by
  rw [exec, execBpPackByte, unlessErr_of_ok he, if_pos hm]

theorem exec_bpPackByte_push (he : s.err = false) (hm : s.bpMode = .pack) (hl : s.liveOk) (b : Byte) :
    exec (.bpPackByte b) s = .next (packPush b s) := by
  rw [exec, execBpPackByte, unlessErr_of_ok he, if_neg (not_not.2 hm), withLiveBits_of_ok hl, byteOperand]

theorem exec_bpUnpackSym_conflict (he : s.err = false) (hm : s.bpMode ≠ .unpack) (opnd : Byte) :
    exec (.bpUnpackSym opnd) s = raiseError .modeConflict s := by
  rw [exec, execBpUnpackSym, unlessErr_of_ok he, if_pos hm]

theorem exec_bpUnpackSym_range (he : s.err = false) (hm : s.bpMode = .unpack) {opnd : Byte} (ho : 31 < opnd.toNat) :
    exec (.bpUnpackSym opnd) s = raiseError .operandRange s := by
  rw [exec, execBpUnpackSym, unlessErr_of_ok he, if_neg (not_not.2 hm), symbolOperand_of_gt ho]

theorem exec_bpUnpackSym_push (he : s.err = false) (hm : s.bpMode = .unpack) (hl : s.liveOk) {opnd : Byte}
    (ho : opnd.toNat ≤ 31) : exec (.bpUnpackSym opnd) s = .next (unpackPush (opnd.extractLsb' 0 5) s) := by
  rw [exec, execBpUnpackSym, unlessErr_of_ok he, if_neg (not_not.2 hm), symbolOperand_of_le ho]
  exact withLiveBits_of_ok hl _

theorem exec_bpFlush_padded (he : s.err = false) (hm : s.bpMode = .pack) (hl : s.liveOk) (hc : 0 < s.bpCnt.toNat) :
    exec .bpFlush s = .next ((s.openStream .idle).emit (paddedSymbol s) 0#8 1) := by
  rw [exec, execBpFlush, unlessErr_of_ok he, if_pos hm, withLiveBits_of_ok hl, if_pos hc]

theorem exec_bpFlush_empty (he : s.err = false) (hp : s.bpMode = .pack → s.liveOk ∧ s.bpCnt.toNat = 0) :
    exec .bpFlush s = .next ((s.openStream .idle).emit 0#8 0#8 0) := by
  rw [exec, execBpFlush, unlessErr_of_ok he]
  split
  next hm =>
    obtain ⟨hl, hc⟩ := hp hm
    rw [withLiveBits_of_ok hl, if_neg (by omega)]
  next => rfl

/-- The padded symbol as a number: the live bits moved to the top of five bits (R107). -/
theorem paddedSymbol_eq (s : State) :
    paddedSymbol s = BitVec.ofNat 8 (s.bpAcc.toNat * 2 ^ (5 - s.bpCnt.toNat) % 32) := by
  have hpow : 2 ^ (5 - s.bpCnt.toNat) ≤ 2 ^ 5 := Nat.pow_le_pow_right (by decide) (by omega)
  have hlt : s.bpAcc.toNat * 2 ^ (5 - s.bpCnt.toNat) < 2 ^ 7 * 2 ^ 5 :=
    Nat.mul_lt_mul_of_lt_of_le s.bpAcc.isLt hpow (by decide)
  have hacc : (s.bpAcc.setWidth 12).toNat = s.bpAcc.toNat := BitVec.toNat_setWidth_of_le (by decide)
  have hmask : (0x1F#12).toNat = 2 ^ 5 - 1 := rfl
  apply BitVec.eq_of_toNat_eq
  rw [paddedSymbol, BitVec.toNat_setWidth, BitVec.toNat_and, BitVec.toNat_shiftLeft, hacc, Nat.shiftLeft_eq,
    Nat.mod_eq_of_lt (b := 2 ^ 12) hlt, hmask, Nat.and_two_pow_sub_one_eq_mod, BitVec.toNat_ofNat]

/-- Settles O21: the effect of the command, and `STATUS` by evaluation. -/
theorem startPackOpensStream : Obligations.StartPackOpensStream := by
  refine ⟨fun w => decode_of_opcField (i := .bpStartPack), fun s he => (exec_bpStart he).1, fun t h => ?_⟩
  cases h
  rfl

/-- Settles O22: the effect of the command, and `STATUS` by evaluation. -/
theorem startUnpackOpensStream : Obligations.StartUnpackOpensStream := by
  refine ⟨fun w => decode_of_opcField (i := .bpStartUnpack), fun s he => (exec_bpStart he).2, fun t h => ?_⟩
  cases h
  rfl

/-- Settles O23: each branch of the push is an `emit` and a `keepLive` of the word `t`, read as numbers. -/
theorem packBytePush : Obligations.PackBytePush := by
  refine ⟨fun w => decode_of_opcField (i := .bpPackByte 0#8),
    fun b s he => ⟨fun hm => exec_bpPackByte_conflict he hm b, fun hm hl hn => ?_, fun hm hl hn => ?_⟩⟩
  · have hc := hl.2 hm
    rw [exec_bpPackByte_push he hm hl, packPush_two b hn]
    dsimp only
    rw [State.keepLive_eq _ _ (by omega)]
    simp only [extractLsb'_eq_ofNat, lane_of_symbol, packWord_toNat hl hm]
    rfl
  · rw [exec_bpPackByte_push he hm hl, packPush_one b hn]
    dsimp only
    rw [State.keepLive_eq _ _ (by omega)]
    simp only [extractLsb'_eq_ofNat, lane_of_symbol, packWord_toNat hl hm]
    rfl

theorem symbolOf_toNat {opnd : Byte} (ho : opnd.toNat ≤ 31) : (opnd.extractLsb' 0 5).toNat = opnd.toNat := by
  rw [toNat_extractLsb'_eq_div, Nat.pow_zero, Nat.div_one]
  exact Nat.mod_eq_of_lt (by omega)

/-- Settles O24: each branch of the push is an `emit` and a `keepLive` of the word `t`, read as numbers. -/
theorem unpackSymbolPush : Obligations.UnpackSymbolPush := by
  refine ⟨fun w => decode_of_opcField (i := .bpUnpackSym 0#8),
    fun opnd s he => ⟨fun hm => exec_bpUnpackSym_conflict he hm opnd, fun hm ho => exec_bpUnpackSym_range he hm ho,
      fun hm ho hl hn => ?_, fun hm ho hl hn => ?_⟩⟩
  · rw [exec_bpUnpackSym_push he hm hl ho, unpackPush_one _ hn]
    dsimp only
    rw [State.keepLive_eq _ _ (by omega)]
    simp only [extractLsb'_eq_ofNat (pushWord _ _ _), unpackWord_toNat, symbolOf_toNat ho]
    rfl
  · have hlt : s.bpAcc.toNat * 32 + opnd.toNat < 2 ^ (s.bpCnt.toNat + 5) :=
      pushWord_lt (w := 5) hl.1 (Nat.lt_succ_of_le ho)
    rw [exec_bpUnpackSym_push he hm hl ho, unpackPush_none _ hn, State.keepLive_eq _ _ (by omega), unpackWord_toNat,
      symbolOf_toNat ho, Nat.mod_eq_of_lt hlt]
    rfl

/-- Settles O25: in each branch the stream is closed, with the padded symbol as a number. -/
theorem flushClosesStream : Obligations.FlushClosesStream := by
  refine ⟨fun w => decode_of_opcField (i := .bpFlush), fun s he => ⟨fun hm hl hc => ?_, fun hp => ?_⟩⟩
  · rw [exec_bpFlush_padded he hm hl hc, paddedSymbol_eq]
    rfl
  · exact exec_bpFlush_empty he fun hm => ⟨(hp hm).1, congrArg BitVec.toNat (hp hm).2⟩

end Sys2Proof.Machine
end

section
/-! A push over the bitstream (R100, R52): numbers as lists of bits, most significant first, and what a push does to the
live bits and to the two counts (R101). -/

namespace Sys2Proof.Machine

variable {s : State}

/-! ### Numbers as bits, most significant first -/

/-- The low `n` bits of a number, the most significant first (R13). -/
def msbBits (n x : Nat) : List Bool := (List.range n).map fun k => x.testBit (n - 1 - k)

@[simp] theorem msbBits_length (n x : Nat) : (msbBits n x).length = n := by simp [msbBits]

theorem liveBits_eq_msbBits (s : State) : s.liveBits = msbBits s.bpCnt.toNat s.bpAcc.toNat := rfl

theorem byteBits_eq_msbBits (b : Byte) : byteBits b = msbBits 8 b.toNat := rfl

theorem symBits_eq_msbBits (v : Sym) : symBits v = msbBits 5 v.toNat := rfl

/-- Only the low `n` bits are listed. -/
theorem msbBits_congr {n x y : Nat} (h : x % 2 ^ n = y % 2 ^ n) : msbBits n x = msbBits n y := by
  refine List.map_congr_left fun k hk => ?_
  have hk : n - 1 - k < n := by have := List.mem_range.1 hk; omega
  have hbit := congrArg (Nat.testBit · (n - 1 - k)) h
  simpa [Nat.testBit_mod_two_pow, hk] using hbit

theorem msbBits_mod (n x : Nat) : msbBits n (x % 2 ^ n) = msbBits n x := msbBits_congr (Nat.mod_mod x _)

/-- The oldest `m` of `m + k` bits are the number without its low `k` bits. -/
theorem msbBits_add (m k x : Nat) : msbBits (m + k) x = msbBits m (x / 2 ^ k) ++ msbBits k x := by
  rw [msbBits, List.range_add, List.map_append, List.map_map]
  congr 1
  · refine List.map_congr_left fun j hj => ?_
    have hj := List.mem_range.1 hj
    rw [Nat.testBit_div_two_pow]
    congr 1
    omega
  · refine List.map_congr_left fun j hj => ?_
    simp only [Function.comp_apply]
    congr 1
    omega

/-- The oldest `g` of `n` bits, taken off. -/
theorem msbBits_take {g n : Nat} (h : g ≤ n) (x : Nat) :
    msbBits n x = msbBits g (x / 2 ^ (n - g)) ++ msbBits (n - g) x := by
  rw [← msbBits_add, Nat.add_sub_cancel' h]

/-- The word of a push lists the bits before it and then the operand's (R100). -/
theorem msbBits_push {w v : Nat} (c a : Nat) (hv : v < 2 ^ w) :
    msbBits (c + w) (a * 2 ^ w + v) = msbBits c a ++ msbBits w v := by
  have hdiv : (a * 2 ^ w + v) / 2 ^ w = a := by
    rw [Nat.add_comm, Nat.add_mul_div_right _ _ (Nat.two_pow_pos w), Nat.div_eq_of_lt hv, Nat.zero_add]
  rw [msbBits_add, hdiv, msbBits_congr (Nat.mul_add_mod' a (2 ^ w) v)]

theorem symBits_ofNat (x : Nat) : symBits (BitVec.ofNat 5 x) = msbBits 5 x := by
  rw [symBits_eq_msbBits, BitVec.toNat_ofNat, msbBits_mod]

theorem byteBits_ofNat (x : Nat) : byteBits (BitVec.ofNat 8 x) = msbBits 8 x := by
  rw [byteBits_eq_msbBits, BitVec.toNat_ofNat, msbBits_mod]

theorem liveBits_keepLive (s : State) (t : BitVec 12) {k : Nat} (hk : k ≤ 7) :
    (s.keepLive t k).liveBits = msbBits k t.toNat := by
  obtain ⟨hacc, hcnt⟩ := s.keepLive_toNat t hk
  rw [liveBits_eq_msbBits, hacc, hcnt, msbBits_mod]

/-- A symbol comes back from its 8-bit lane. -/
theorem setWidth_lane (v : Sym) : (v.setWidth 8).setWidth 5 = v := by
  rw [BitVec.setWidth_setWidth_of_le _ (by decide), BitVec.setWidth_eq]

/-! ### The bitstream under a push -/

/-- A byte push emits symbols, the oldest bits of the live bits and the byte, and keeps the rest (R100, R104). -/
theorem packPush_bits (hl : s.liveOk) (hm : s.bpMode = .pack) (b : Byte) :
    ∃ symbols : List Sym, (packPush b s).emitted = symbols.map (BitVec.setWidth 8)
      ∧ s.liveBits ++ byteBits b = symbols.flatMap symBits ++ (packPush b s).liveBits := by
  have hc := hl.2 hm
  have hword : s.liveBits ++ byteBits b
      = msbBits (s.bpCnt.toNat + 8) (pushWord s.bpAcc 8 (b.setWidth 12)).toNat := by
    rw [packWord_toNat hl hm]
    exact (msbBits_push _ _ b.isLt).symm
  rw [hword]
  obtain hn | hn := Nat.lt_or_ge (s.bpCnt.toNat + 8) 10
  · rw [packPush_one b hn]
    refine ⟨[_], rfl, ?_⟩
    rw [liveBits_keepLive _ _ (by omega), List.flatMap_singleton, extractLsb'_eq_ofNat, symBits_ofNat]
    exact msbBits_take (by omega) _
  · rw [packPush_two b hn]
    refine ⟨[_, _], rfl, ?_⟩
    rw [liveBits_keepLive _ _ (by omega), List.flatMap_cons, List.flatMap_singleton, extractLsb'_eq_ofNat,
      extractLsb'_eq_ofNat, symBits_ofNat, symBits_ofNat, List.append_assoc, msbBits_take (g := 5) (by omega),
      msbBits_take (g := 5) (n := s.bpCnt.toNat + 8 - 5) (by omega), Nat.sub_sub]

/-- A symbol push emits at most a byte, the oldest bits of the live bits and the symbol, and keeps the rest
(R100, R105). -/
theorem unpackPush_bits (s : State) (v : Sym) :
    s.liveBits ++ symBits v = (unpackPush v s).emitted.flatMap byteBits ++ (unpackPush v s).liveBits := by
  have hc := s.bpCnt.isLt
  have hword : s.liveBits ++ symBits v
      = msbBits (s.bpCnt.toNat + 5) (pushWord s.bpAcc 5 (v.setWidth 12)).toNat := by
    rw [unpackWord_toNat]
    exact (msbBits_push _ _ v.isLt).symm
  rw [hword]
  obtain hn | hn := Nat.lt_or_ge (s.bpCnt.toNat + 5) 8
  · rw [unpackPush_none v hn, liveBits_keepLive _ _ (by omega)]
    rfl
  · rw [unpackPush_one v hn]
    dsimp only
    rw [liveBits_keepLive _ _ (by omega), State.emitted_keepLive, State.emitted_emit_one, List.flatMap_singleton,
      extractLsb'_eq_ofNat, byteBits_ofNat]
    exact msbBits_take hn _

/-- Settles O27: the bits of the transient word are those before the push, and those emitted and kept after it. -/
theorem pushExtendsBitstream : Obligations.PushExtendsBitstream := by
  intro s he hl
  refine ⟨fun hm b => ⟨_, exec_bpPackByte_push he hm hl b, ?_⟩,
    fun hm opnd ho => ⟨_, exec_bpUnpackSym_push he hm hl ho, ?_⟩⟩
  · obtain ⟨symbols, hemit, hbits⟩ := packPush_bits hl hm b
    simp only [hbits, hemit, List.flatMap_map, setWidth_lane]
  · rw [BitVec.setWidth_eq_extractLsb' (by decide)]
    exact unpackPush_bits s _

/-! ### The counts of a push -/

theorem emit_keepLive_counts {a b : Byte} {count : Fin 3} {t : BitVec 12} {k o c : Nat} (hk : k ≤ 7)
    (ho : count.val = o) (hc : k = c) :
    ((s.emit a b count).keepLive t k).bpOcnt.val = o ∧ ((s.emit a b count).keepLive t k).bpCnt.toNat = c :=
  ⟨ho, ((s.emit a b count).keepLive_toNat t hk).2.trans hc⟩

/-- A byte push emits as many symbols as the bits have whole groups of five, and leaves the remainder (R101). -/
theorem packPush_counts (hc : s.bpCnt.toNat < 5) (b : Byte) :
    (packPush b s).bpOcnt.val = (s.bpCnt.toNat + 8) / 5
      ∧ (packPush b s).bpCnt.toNat = (s.bpCnt.toNat + 8) % 5 := by
  obtain hn | hn := Nat.lt_or_ge (s.bpCnt.toNat + 8) 10
  · rw [packPush_one b hn]
    exact emit_keepLive_counts (by omega) (by dsimp; omega) (by omega)
  · rw [packPush_two b hn]
    exact emit_keepLive_counts (by omega) (by dsimp; omega) (by omega)

/-- A symbol push emits as many bytes as the bits have whole groups of eight, and leaves the remainder (R101). -/
theorem unpackPush_counts (s : State) (v : Sym) :
    (unpackPush v s).bpOcnt.val = (s.bpCnt.toNat + 5) / 8
      ∧ (unpackPush v s).bpCnt.toNat = (s.bpCnt.toNat + 5) % 8 := by
  have hc := s.bpCnt.isLt
  obtain hn | hn := Nat.lt_or_ge (s.bpCnt.toNat + 5) 8
  · rw [unpackPush_none v hn]
    exact emit_keepLive_counts (by omega) (by dsimp; omega) (by omega)
  · rw [unpackPush_one v hn]
    exact emit_keepLive_counts (by omega) (by dsimp; omega) (by omega)

theorem packCounts_table : ∀ c : Fin 5,
    ((c.val + 8) / 5, (c.val + 8) % 5) = [(1, 3), (1, 4), (2, 0), (2, 1), (2, 2)].getD c.val (0, 0) := by decide

theorem unpackCounts_table : ∀ c : Fin 8, ((c.val + 5) / 8, (c.val + 5) % 8)
    = [(0, 5), (0, 6), (0, 7), (1, 0), (1, 1), (1, 2), (1, 3), (1, 4)].getD c.val (0, 0) := by decide

/-- Settles O26: the counts are the quotient and the remainder by the width of a group, as the table lists them. -/
theorem pushCounts : Obligations.PushCounts := by
  intro s he hl
  refine ⟨fun hm b => ⟨_, exec_bpPackByte_push he hm hl b, ?_⟩,
    fun hm opnd ho => ⟨_, exec_bpUnpackSym_push he hm hl ho, ?_⟩⟩
  · have hc : s.bpCnt.toNat < 5 := Nat.lt_succ_of_le (hl.2 hm)
    obtain ⟨hocnt, hcnt⟩ := packPush_counts hc b
    rw [hocnt, hcnt]
    exact packCounts_table ⟨_, hc⟩
  · obtain ⟨hocnt, hcnt⟩ := unpackPush_counts s (opnd.extractLsb' 0 5)
    rw [hocnt, hcnt]
    exact unpackCounts_table ⟨_, s.bpCnt.isLt⟩

end Sys2Proof.Machine
end

section
/-! The reference functions over the bitstream (the head of 40_bitpacker.md): the groups of a stream that begins with
whole groups, what an incomplete last group becomes, and the lengths. -/

namespace Sys2Proof.Machine

theorem symOfBits_symBits (v : Sym) :
    symOfBits (v.getLsbD 4) (v.getLsbD 3) (v.getLsbD 2) (v.getLsbD 1) (v.getLsbD 0) = v := by
  refine BitVec.eq_of_getLsbD_eq fun k hk => BitVec.getLsbD_append.trans ?_
  simp only [BitVec.getLsbD_append]
  interval_cases k <;> simp

theorem byteOfBits_byteBits (b : Byte) :
    byteOfBits (b.getLsbD 7) (b.getLsbD 6) (b.getLsbD 5) (b.getLsbD 4) (b.getLsbD 3) (b.getLsbD 2) (b.getLsbD 1)
      (b.getLsbD 0) = b := by
  refine BitVec.eq_of_getLsbD_eq fun k hk => BitVec.getLsbD_append.trans ?_
  simp only [BitVec.getLsbD_append]
  interval_cases k <;> simp

theorem symBits_symOfBits : ∀ a b c d e : Bool, symBits (symOfBits a b c d e) = [a, b, c, d, e] := by decide

/-! ### Whole groups -/

theorem symbolsOfBits_symBits_append (v : Sym) (rest : List Bool) :
    symbolsOfBits (symBits v ++ rest) = v :: symbolsOfBits rest :=
  congrArg (· :: symbolsOfBits rest) (symOfBits_symBits v)

theorem bytesOfBits_byteBits_append (b : Byte) (rest : List Bool) :
    bytesOfBits (byteBits b ++ rest) = b :: bytesOfBits rest :=
  congrArg (· :: bytesOfBits rest) (byteOfBits_byteBits b)

theorem symbolsOfBits_flatMap_append (symbols : List Sym) (rest : List Bool) :
    symbolsOfBits (symbols.flatMap symBits ++ rest) = symbols ++ symbolsOfBits rest := by
  induction symbols with
  | nil => rfl
  | cons v symbols ih =>
    rw [List.flatMap_cons, List.append_assoc, symbolsOfBits_symBits_append, ih, List.cons_append]

theorem bytesOfBits_flatMap_append (bytes : List Byte) (rest : List Bool) :
    bytesOfBits (bytes.flatMap byteBits ++ rest) = bytes ++ bytesOfBits rest := by
  induction bytes with
  | nil => rfl
  | cons b bytes ih =>
    rw [List.flatMap_cons, List.append_assoc, bytesOfBits_byteBits_append, ih, List.cons_append]

/-! ### The incomplete last group -/

/-- Fewer than eight bits are discarded. -/
theorem bytesOfBits_of_short {bits : List Bool} (h : bits.length < 8) : bytesOfBits bits = [] := by
  unfold bytesOfBits
  split
  · simp only [List.length_cons] at h; omega
  · rfl

/-- An incomplete group of five is padded with trailing zero bits. -/
theorem symbolsOfBits_pad {bits : List Bool} (h0 : bits ≠ []) (h5 : bits.length < 5) :
    symbolsOfBits (bits ++ List.replicate (5 - bits.length) false) = symbolsOfBits bits := by
  match bits with
  | [] => exact absurd rfl h0
  | [_] | [_, _] | [_, _, _] | [_, _, _, _] => rfl
  | _ :: _ :: _ :: _ :: _ :: _ => simp only [List.length_cons] at h5; omega

/-- The symbols of a bitstream hold its bits, followed by fewer than five zero bits. -/
theorem symbolsOfBits_bits (bits : List Bool) :
    ∃ pad, pad < 5 ∧ (symbolsOfBits bits).flatMap symBits = bits ++ List.replicate pad false := by
  fun_induction symbolsOfBits bits with
  | case1 a b c d e rest ih =>
    obtain ⟨pad, hpad, hbits⟩ := ih
    exact ⟨pad, hpad, by rw [List.flatMap_cons, symBits_symOfBits, hbits]; rfl⟩
  | case2 => exact ⟨1, by decide, by rw [List.flatMap_singleton, symBits_symOfBits]; rfl⟩
  | case3 => exact ⟨2, by decide, by rw [List.flatMap_singleton, symBits_symOfBits]; rfl⟩
  | case4 => exact ⟨3, by decide, by rw [List.flatMap_singleton, symBits_symOfBits]; rfl⟩
  | case5 => exact ⟨4, by decide, by rw [List.flatMap_singleton, symBits_symOfBits]; rfl⟩
  | case6 => exact ⟨0, by decide, rfl⟩

/-! ### Lengths -/

theorem length_flatMap_byteBits (bytes : List Byte) : (bytes.flatMap byteBits).length = 8 * bytes.length := by
  simp [List.length_flatMap, byteBits, Nat.mul_comm]

theorem length_flatMap_symBits (symbols : List Sym) : (symbols.flatMap symBits).length = 5 * symbols.length := by
  simp [List.length_flatMap, symBits, Nat.mul_comm]

/-- The symbols are as many as the bits have groups of five, begun groups counted (R106). -/
theorem pack5_length (bytes : List Byte) : (pack5 bytes).length = (8 * bytes.length + 4) / 5 := by
  obtain ⟨pad, hpad, hbits⟩ := symbolsOfBits_bits (bytes.flatMap byteBits)
  have hlen := congrArg List.length hbits
  rw [length_flatMap_symBits, List.length_append, List.length_replicate, length_flatMap_byteBits] at hlen
  rw [pack5]
  omega

theorem bytesOfBits_length (bits : List Bool) : (bytesOfBits bits).length = bits.length / 8 := by
  fun_induction bytesOfBits bits with
  | case1 a b c d e f g h rest ih => simp only [List.length_cons, ih]; omega
  | case2 bits hshort =>
    match bits with
    | [] | [_] | [_, _] | [_, _, _] | [_, _, _, _] | [_, _, _, _, _] | [_, _, _, _, _, _] | [_, _, _, _, _, _, _] => simp
    | a :: b :: c :: d :: e :: f :: g :: h :: rest => exact (hshort a b c d e f g h rest rfl).elim

/-- The bytes are as many as the bits have whole groups of eight (R109). -/
theorem unpack5_length (symbols : List Sym) : (unpack5 symbols).length = 5 * symbols.length / 8 := by
  rw [unpack5, bytesOfBits_length, length_flatMap_symBits]

/-- Unpacking undoes packing: the padding is shorter than a byte (R110). -/
theorem unpack5_pack5 (bytes : List Byte) : unpack5 (pack5 bytes) = bytes := by
  obtain ⟨pad, hpad, hbits⟩ := symbolsOfBits_bits (bytes.flatMap byteBits)
  have hshort : (List.replicate pad false).length < 8 := by rw [List.length_replicate]; omega
  rw [unpack5, pack5, hbits, bytesOfBits_flatMap_append, bytesOfBits_of_short hshort, List.append_nil]

end Sys2Proof.Machine
end

section
/-! The stream laws (R106, R109 to R111). What the two directions have in common is named once: a start, one push per
operand, the flush. The laws of a whole stream follow by one induction from what a push and the flush do. -/

namespace Sys2Proof.Machine

variable {s : State} {α : Type}

/-- A stream of the given mode goes on, with no error and the live bits of the specified form. -/
structure State.Streaming (s : State) (m : BpMode) : Prop where
  noErr : s.err = false
  mode : s.bpMode = m
  live : s.liveOk

/-- One direction of the BitPacker: its commands, and what it is to compute. -/
structure Direction (α : Type) where
  /-- The mode of an open stream. -/
  mode : BpMode
  /-- The command that opens a stream. -/
  start : Instr
  /-- The command that pushes an operand. -/
  cmd : α → Instr
  /-- What a push makes of an open stream's state. -/
  push : α → State → State
  /-- The bits of an operand, the most significant first. -/
  bits : α → List Bool
  /-- The number of these bits. -/
  width : Nat
  /-- The number of bits of an emitted value. -/
  group : Nat
  /-- The values of a whole bitstream, as the host collects them. -/
  values : List Bool → List Byte

/-- The rules of a direction: each command's effect on an open stream, over the bitstream and in counts. -/
structure Direction.Lawful (D : Direction α) : Prop where
  exec_start {s : State} (he : s.err = false) : exec D.start s = .next ((s.openStream D.mode).emit 0#8 0#8 0)
  exec_cmd {s : State} (hs : s.Streaming D.mode) (a : α) : exec (D.cmd a) s = .next (D.push a s)
  push_streaming {s : State} (hs : s.Streaming D.mode) (a : α) : (D.push a s).Streaming D.mode
  push_values {s : State} (hs : s.Streaming D.mode) (a : α) (rest : List Bool) :
    D.values (s.liveBits ++ (D.bits a ++ rest)) = (D.push a s).emitted ++ D.values ((D.push a s).liveBits ++ rest)
  push_counts {s : State} (hs : s.Streaming D.mode) (a : α) :
    (D.push a s).bpOcnt.val = (s.bpCnt.toNat + D.width) / D.group
      ∧ (D.push a s).bpCnt.toNat = (s.bpCnt.toNat + D.width) % D.group
  exec_flush {s : State} (hs : s.Streaming D.mode) : ∃ t, exec .bpFlush s = .next t
    ∧ t.emitted = D.values s.liveBits ∧ t.err = false ∧ t.bpMode = .idle

/-! ### Whole streams -/

theorem runCommands_append {before after : List Instr} {s t : State} (h : runCommands before s = .next t) :
    runCommands (before ++ after) s = runCommands after t := by
  induction before generalizing s with
  | nil => cases h; rfl
  | cons i before ih =>
    rw [runCommands] at h
    split at h
    next u hu => rw [List.cons_append, runCommands_cons hu, ih h]
    all_goals cases h

theorem opened_streaming (he : s.err = false) (m : BpMode) : ((s.openStream m).emit 0#8 0#8 0).Streaming m :=
  ⟨he, rfl, by simp, fun _ => by simp⟩

namespace Direction.Lawful

variable {D : Direction α} (h : D.Lawful)
include h

/-- From any open stream, the pushes and the flush emit the values of the live bits and the operands' bits. -/
theorem collect_pushes_flush (operands : List α) (hs : s.Streaming D.mode) :
    ∃ t, runCollect (operands.map D.cmd ++ [.bpFlush]) s = some (t, D.values (s.liveBits ++ operands.flatMap D.bits))
      ∧ t.err = false ∧ t.bpMode = .idle := by
  induction operands generalizing s with
  | nil =>
    obtain ⟨t, hexec, hemit, hend⟩ := h.exec_flush hs
    refine ⟨t, ?_, hend⟩
    rw [List.flatMap_nil, List.append_nil, ← hemit, ← List.append_nil t.emitted]
    exact runCollect_cons hexec rfl
  | cons a operands ih =>
    obtain ⟨t, hrun, hend⟩ := ih (h.push_streaming hs a)
    refine ⟨t, ?_, hend⟩
    rw [List.flatMap_cons, h.push_values hs]
    exact runCollect_cons (h.exec_cmd hs a) hrun

/-- The stream law: a start, the pushes and the flush emit the values of the operands' bits (R106, R109). -/
theorem collect_stream (operands : List α) (he : s.err = false) :
    ∃ t, runCollect ([D.start] ++ operands.map D.cmd ++ [.bpFlush]) s = some (t, D.values (operands.flatMap D.bits))
      ∧ t.err = false ∧ t.bpMode = .idle := by
  obtain ⟨t, hrun, hend⟩ := h.collect_pushes_flush operands (opened_streaming he D.mode)
  exact ⟨t, runCollect_cons (h.exec_start he) hrun, hend⟩

/-- The live bits after some pushes are what whole groups leave of all the bits (R111). -/
theorem run_pushes (operands : List α) (hs : s.Streaming D.mode) (hc : s.bpCnt.toNat < D.group) :
    ∃ t, runCommands (operands.map D.cmd) s = .next t ∧ t.Streaming D.mode
      ∧ t.bpCnt.toNat = (s.bpCnt.toNat + D.width * operands.length) % D.group := by
  induction operands generalizing s with
  | nil => exact ⟨s, rfl, hs, (Nat.mod_eq_of_lt hc).symm⟩
  | cons a operands ih =>
    obtain ⟨-, hcnt⟩ := h.push_counts hs a
    obtain ⟨t, hrun, ht, htcnt⟩ := ih (h.push_streaming hs a) (hcnt ▸ Nat.mod_lt _ (by omega))
    refine ⟨t, (runCommands_cons (h.exec_cmd hs a)).trans hrun, ht, ?_⟩
    rw [htcnt, hcnt, Nat.mod_add_mod, List.length_cons, Nat.mul_succ, Nat.add_assoc, Nat.add_comm D.width]

theorem run_start_pushes (operands : List α) (he : s.err = false) (hg : 0 < D.group) :
    ∃ t, runCommands ([D.start] ++ operands.map D.cmd) s = .next t ∧ t.Streaming D.mode
      ∧ t.bpCnt.toNat = D.width * operands.length % D.group := by
  obtain ⟨t, hrun, ht, hcnt⟩ := h.run_pushes operands (opened_streaming he D.mode) hg
  exact ⟨t, (runCommands_cons (h.exec_start he)).trans hrun, ht, hcnt.trans (congrArg (· % D.group) (Nat.zero_add _))⟩

/-- The counts after a push: of the number of operands before it, only the remainder by the group matters
(R111). -/
theorem run_start_pushes_last (operands : List α) (a : α) (he : s.err = false) (hg : 0 < D.group) :
    ∃ t, runCommands ([D.start] ++ (operands ++ [a]).map D.cmd) s = .next t
      ∧ t.bpCnt.toNat = (D.width * (operands.length % D.group) % D.group + D.width) % D.group
      ∧ t.bpOcnt.val = (D.width * (operands.length % D.group) % D.group + D.width) / D.group := by
  obtain ⟨t, hrun, ht, hcnt⟩ := h.run_start_pushes operands he hg
  obtain ⟨hocnt', hcnt'⟩ := h.push_counts ht a
  rw [Nat.mul_mod_mod, ← hcnt]
  refine ⟨D.push a t, ?_, hcnt', hocnt'⟩
  rw [List.map_append, ← List.append_assoc, runCommands_append hrun]
  exact runCommands_cons (h.exec_cmd ht a)

end Direction.Lawful

/-! ### The pack direction -/

/-- The symbols of a bitstream in their 8-bit lanes. -/
def laneValues (bits : List Bool) : List Byte := (symbolsOfBits bits).map (BitVec.setWidth 8)

/-- Bytes in, symbols out (R104, R106). -/
def packDirection : Direction Byte where
  mode := .pack
  start := .bpStartPack
  cmd := .bpPackByte
  push := packPush
  bits := byteBits
  width := 8
  group := 5
  values := laneValues

theorem liveBits_length (s : State) : s.liveBits.length = s.bpCnt.toNat := msbBits_length _ _

theorem liveBits_of_cnt_zero (hc : s.bpCnt.toNat = 0) : s.liveBits = [] :=
  List.eq_nil_of_length_eq_zero ((liveBits_length s).trans hc)

/-- The live bits and zero bits behind them are the bits of the number moved up. -/
theorem msbBits_shift (c k x : Nat) : msbBits (c + k) (x * 2 ^ k) = msbBits c x ++ List.replicate k false := by
  have hzero : msbBits k 0 = List.replicate k false := by simp [msbBits, List.map_const']
  rw [← hzero]
  exact msbBits_push c x (Nat.two_pow_pos k)

theorem symbolsOfBits_msbBits_five (x : Nat) : symbolsOfBits (msbBits 5 x) = [BitVec.ofNat 5 x] := by
  rw [← symBits_ofNat, ← List.append_nil (symBits _), symbolsOfBits_symBits_append]
  rfl

/-- The padded symbol is the symbol of the live bits as an incomplete group (R107). -/
theorem laneValues_liveBits (h0 : 0 < s.bpCnt.toNat) (h5 : s.bpCnt.toNat < 5) :
    laneValues s.liveBits = [paddedSymbol s] := by
  have hlen := liveBits_length s
  have hne : s.liveBits ≠ [] := List.ne_nil_of_length_pos (by omega)
  rw [laneValues, ← symbolsOfBits_pad hne (by omega), hlen, liveBits_eq_msbBits, ← msbBits_shift,
    Nat.add_sub_cancel' (by omega), symbolsOfBits_msbBits_five, List.map_singleton, lane_of_symbol, paddedSymbol_eq]

theorem exec_bpFlush_pack (hs : s.Streaming .pack) : ∃ t, exec .bpFlush s = .next t
    ∧ t.emitted = laneValues s.liveBits ∧ t.err = false ∧ t.bpMode = .idle := by
  obtain ⟨he, hm, hl⟩ := hs
  obtain hc | hc := Nat.eq_zero_or_pos s.bpCnt.toNat
  · refine ⟨_, exec_bpFlush_empty he fun _ => ⟨hl, hc⟩, ?_, he, rfl⟩
    rw [liveBits_of_cnt_zero hc]
    rfl
  · refine ⟨_, exec_bpFlush_padded he hm hl hc, ?_, he, rfl⟩
    rw [laneValues_liveBits hc (Nat.lt_succ_of_le (hl.2 hm)), State.emitted_emit_one]

theorem keepLive_acc_lt (s : State) (t : BitVec 12) {k : Nat} (hk : k ≤ 7) :
    (s.keepLive t k).bpAcc.toNat < 2 ^ (s.keepLive t k).bpCnt.toNat := by
  obtain ⟨hacc, hcnt⟩ := s.keepLive_toNat t hk
  rw [hacc, hcnt]
  exact Nat.mod_lt _ (Nat.two_pow_pos k)

theorem packPush_streaming (hs : s.Streaming .pack) (b : Byte) : (packPush b s).Streaming .pack := by
  obtain ⟨he, hm, hl⟩ := hs
  have hframe := packPush_frame s b
  obtain ⟨-, hcnt⟩ := packPush_counts (Nat.lt_succ_of_le (hl.2 hm)) b
  obtain ⟨out0, out1, count, t, k, heq, hk, -⟩ := packPush_form s b
  have hk := hk (hl.2 hm)
  exact ⟨hframe.error.1.trans he, hframe.bpMode.trans hm, heq ▸ keepLive_acc_lt _ t (by omega), fun _ => by omega⟩

theorem packPush_laneValues (hs : s.Streaming .pack) (b : Byte) (rest : List Bool) :
    laneValues (s.liveBits ++ (byteBits b ++ rest))
      = (packPush b s).emitted ++ laneValues ((packPush b s).liveBits ++ rest) := by
  obtain ⟨symbols, hemit, hbits⟩ := packPush_bits hs.live hs.mode b
  rw [← List.append_assoc, hbits, List.append_assoc, laneValues, symbolsOfBits_flatMap_append, List.map_append, hemit,
    laneValues]

theorem packDirection_lawful : packDirection.Lawful where
  exec_start he := (exec_bpStart he).1
  exec_cmd hs b := exec_bpPackByte_push hs.noErr hs.mode hs.live b
  push_streaming := packPush_streaming
  push_values := packPush_laneValues
  push_counts hs := packPush_counts (Nat.lt_succ_of_le (hs.live.2 hs.mode))
  exec_flush := exec_bpFlush_pack

/-! ### The unpack direction -/

/-- Symbols in, bytes out (R105, R109). -/
def unpackDirection : Direction Sym where
  mode := .unpack
  start := .bpStartUnpack
  cmd v := .bpUnpackSym (symbolOpnd v)
  push := unpackPush
  bits := symBits
  width := 5
  group := 8
  values := bytesOfBits

theorem exec_bpFlush_unpack (hs : s.Streaming .unpack) : ∃ t, exec .bpFlush s = .next t
    ∧ t.emitted = bytesOfBits s.liveBits ∧ t.err = false ∧ t.bpMode = .idle := by
  obtain ⟨he, hm, -⟩ := hs
  refine ⟨_, exec_bpFlush_empty he fun hp => by simp [hm] at hp, ?_, he, rfl⟩
  rw [bytesOfBits_of_short ((liveBits_length s).trans_lt s.bpCnt.isLt)]
  rfl

theorem exec_bpUnpackSym_symbol (hs : s.Streaming .unpack) (v : Sym) :
    exec (.bpUnpackSym (symbolOpnd v)) s = .next (unpackPush v s) := by
  have hv : (symbolOpnd v).extractLsb' 0 5 = v := by
    rw [← BitVec.setWidth_eq_extractLsb' (by decide)]
    exact setWidth_lane v
  have hle : (symbolOpnd v).toNat ≤ 31 := setWidth_sym_le v
  rw [exec_bpUnpackSym_push hs.noErr hs.mode hs.live hle, hv]

theorem unpackPush_streaming (hs : s.Streaming .unpack) (v : Sym) : (unpackPush v s).Streaming .unpack := by
  have hframe := unpackPush_frame s v
  have hm : (unpackPush v s).bpMode = .unpack := hframe.bpMode.trans hs.mode
  obtain ⟨out0, count, t, k, heq, hk, -⟩ := unpackPush_form s v
  exact ⟨hframe.error.1.trans hs.noErr, hm, heq ▸ keepLive_acc_lt _ t hk, fun hp => by simp [hm] at hp⟩

theorem unpackPush_bytesOfBits (s : State) (v : Sym) (rest : List Bool) :
    bytesOfBits (s.liveBits ++ (symBits v ++ rest))
      = (unpackPush v s).emitted ++ bytesOfBits ((unpackPush v s).liveBits ++ rest) := by
  rw [← List.append_assoc, unpackPush_bits, List.append_assoc, bytesOfBits_flatMap_append]

theorem unpackDirection_lawful : unpackDirection.Lawful where
  exec_start he := (exec_bpStart he).2
  exec_cmd := exec_bpUnpackSym_symbol
  push_streaming := unpackPush_streaming
  push_values {s} _ := unpackPush_bytesOfBits s
  push_counts {s} _ := unpackPush_counts s
  exec_flush := exec_bpFlush_unpack

/-! ### The obligations -/

/-- Settles O28: the stream law of the pack direction, with the length of `pack5`. -/
theorem packStreamIsPack5 : Obligations.PackStreamIsPack5 := by
  intro bytes s he
  obtain ⟨t, hrun, hterr, htmode⟩ := packDirection_lawful.collect_stream bytes he
  exact ⟨t, hrun, hterr, htmode, pack5_length bytes⟩

/-- Settles O29: the stream law of the unpack direction, with the length of `unpack5` and the count before the
flush. -/
theorem unpackStreamIsUnpack5 : Obligations.UnpackStreamIsUnpack5 := by
  intro symbols s he
  obtain ⟨t, hrun, hterr, htmode⟩ := unpackDirection_lawful.collect_stream symbols he
  obtain ⟨u, hpush, -, hcnt⟩ := unpackDirection_lawful.run_start_pushes symbols he (by decide)
  exact ⟨⟨t, hrun, hterr, htmode, unpack5_length symbols⟩, u, hpush, hcnt⟩

/-- Settles O30: the two stream laws in a row, and `unpack5` undoes `pack5`; a lone symbol is lost by `unpack5`. -/
theorem unpackAfterPackIsIdentity : Obligations.UnpackAfterPackIsIdentity := by
  refine ⟨fun bytes s he => ?_, fun L => by omega, [1#5], by decide⟩
  obtain ⟨t, hpack, hterr, -⟩ := packStreamIsPack5 bytes s he
  obtain ⟨⟨u, hunpack, -⟩, -⟩ := unpackStreamIsUnpack5 (pack5 bytes) t hterr
  have hlanes : ((pack5 bytes).map (BitVec.setWidth 8)).map (BitVec.setWidth 5) = pack5 bytes := by
    simp only [List.map_map, Function.comp_def, setWidth_lane, List.map_id']
  refine ⟨t, _, u, hpack, ?_⟩
  rw [hlanes, hunpack, unpack5_pack5]

theorem packPeriod_table : ∀ r : Fin 5, (8 * r.val % 5 + 8) % 5 = [3, 1, 4, 2, 0].getD r.val 0
    ∧ (8 * r.val % 5 + 8) / 5 = [1, 2, 1, 2, 2].getD r.val 0 := by decide

theorem unpackPeriod_table : ∀ r : Fin 8, (5 * r.val % 8 + 5) % 8 = [5, 2, 7, 4, 1, 6, 3, 0].getD r.val 0
    ∧ (5 * r.val % 8 + 5) / 8 = [0, 1, 0, 1, 1, 0, 1, 1].getD r.val 0 := by decide

/-- Settles O31: the counts depend on the number of operands before the push only through its remainder by the group,
and the tables list them. -/
theorem pushCountsArePeriodic : Obligations.PushCountsArePeriodic := by
  intro s he
  refine ⟨fun bytes b => ?_, fun symbols v => ?_⟩
  · obtain ⟨t, hrun, hcnt, hocnt⟩ := packDirection_lawful.run_start_pushes_last bytes b he (by decide)
    obtain ⟨hrem, hquot⟩ := packPeriod_table ⟨bytes.length % 5, Nat.mod_lt _ (by decide)⟩
    exact ⟨t, hrun, hcnt.trans hrem, hocnt.trans hquot⟩
  · obtain ⟨t, hrun, hcnt, hocnt⟩ := unpackDirection_lawful.run_start_pushes_last symbols v he (by decide)
    obtain ⟨hrem, hquot⟩ := unpackPeriod_table ⟨symbols.length % 8, Nat.mod_lt _ (by decide)⟩
    exact ⟨t, hrun, hcnt.trans hrem, hocnt.trans hquot⟩

end Sys2Proof.Machine
end

section
/-! An open stream under the commands that are not its own (R112): what the ChecksumEngine's commands and `NOP` answer
is decided by the elements of the ChecksumEngine and the error elements alone. -/

namespace Sys2Proof.Machine

variable {s s' : State}

/-- The two states agree on everything but the BitPacker and the port. -/
abbrev State.SameButBitPacker (s t : State) : Prop := s.SameChecksum t ∧ s.SameError t

/-- The second answer is a next state that agrees with the first's, if the first is one. -/
def AnswersAlike (k k' : Result) : Prop := ∀ t, k = .next t → ∃ t', k' = .next t' ∧ t.SameButBitPacker t'

theorem answersAlike_next (h : s.SameButBitPacker s') : AnswersAlike (.next s) (.next s') := by
  rintro t ⟨⟩
  exact ⟨s', rfl, h⟩

theorem unlessErr_answersAlike {k k' : Result} (hs : s.SameButBitPacker s') (hk : AnswersAlike k k') :
    AnswersAlike (unlessErr s k) (unlessErr s' k') := by
  have herr : s'.err = s.err := hs.2.1
  cases he : s.err with
  | true => rw [unlessErr_of_err he, unlessErr_of_err (herr.trans he)]; exact answersAlike_next hs
  | false => rwa [unlessErr_of_ok he, unlessErr_of_ok (herr.trans he)]

theorem raiseError_answersAlike (code : ErrCode) (hs : s.SameButBitPacker s') :
    AnswersAlike (raiseError code s) (raiseError code s') :=
  answersAlike_next ⟨hs.1, rfl, rfl⟩

theorem pmAdvance_sameButBitPacker (d : Sym) (hs : s.SameButBitPacker s') :
    (s.pmAdvance d).SameButBitPacker (s'.pmAdvance d) := by
  obtain ⟨⟨hc, hres, -⟩, herr⟩ := hs
  exact ⟨⟨by rw [State.pmAdvance_pmC, State.pmAdvance_pmC, hc], hres, rfl⟩, herr⟩

/-- A ChecksumEngine command or `NOP` reads no `BP_*` element. -/
theorem exec_answersAlike {i : Instr} (hi : i.isChecksum = true ∨ i = .nop) (hs : s.SameButBitPacker s') :
    AnswersAlike (exec i s) (exec i s') := by
  have ⟨⟨hc, hres, _⟩, herr⟩ := hs
  cases i with
  | nop => exact answersAlike_next hs
  | pmInit => exact unlessErr_answersAlike hs (answersAlike_next ⟨⟨rfl, hres, rfl⟩, herr⟩)
  | pmStep b =>
    refine unlessErr_answersAlike hs ?_
    cases symbolOperand b with
    | none => exact raiseError_answersAlike .operandRange hs
    | some d => exact answersAlike_next (pmAdvance_sameButBitPacker d hs)
  | pmStepChar b => exact unlessErr_answersAlike hs (answersAlike_next (pmAdvance_sameButBitPacker _ hs))
  | pmFinal =>
    exact unlessErr_answersAlike hs (answersAlike_next ⟨⟨hc, congrArg (· ^^^ pmFinalXor) hc, rfl⟩, herr⟩)
  | softReset | bpStartPack | bpStartUnpack | bpPackByte | bpUnpackSym | bpFlush => simp [Instr.isChecksum] at hi

theorem not_bitPacker_of_checksum_or_nop {i : Instr} (hi : i.isChecksum = true ∨ i = .nop) :
    i ≠ .softReset ∧ i.isBitPacker = false := by
  cases i with
  | nop | pmInit | pmStep | pmStepChar | pmFinal => simp [Instr.isBitPacker]
  | softReset | bpStartPack | bpStartUnpack | bpPackByte | bpUnpackSym | bpFlush => simp [Instr.isChecksum] at hi

/-- Settles O32: the frames of `BP_MODE` and of the BitPacker's elements, and that other commands do not read them. -/
theorem streamEndsOnlyByItsCommands : Obligations.StreamEndsOnlyByItsCommands := by
  intro i s t h
  refine ⟨fun hi => ?_, fun hi => ?_, fun hi s' hc he => exec_answersAlike hi ⟨hc, he⟩ t h⟩
  · simp only [List.mem_cons, List.not_mem_nil, or_false, not_or] at hi
    obtain ⟨hflush, hpack, hunpack, hreset⟩ := hi
    by_contra hne
    obtain hi | hi | hi := (exec_effect h).bpMode_changed hreset hne
    · exact hpack hi
    · exact hunpack hi
    · exact hflush hi
  · obtain ⟨hreset, hbp⟩ := not_bitPacker_of_checksum_or_nop hi
    exact (exec_effect h).sameBitPacker hreset hbp

end Sys2Proof.Machine
end

section
/-! The step function (R130, R131, R140): its formula, its linearity, and what it is when the top symbol is 0. -/

namespace Sys2Proof.Machine

/-- Settles O33: the loop over the generators, with each branch written as a XOR. -/
theorem pmStepFormula : Obligations.PmStepFormula := by
  intro c d
  have hselect : ∀ (b : Bool) (r g : PmWord), (if b then r ^^^ g else r) = r ^^^ (if b then g else 0#40) := by
    intro b r g
    cases b <;> simp
  simp only [pmStep, List.foldl_cons, List.foldl_nil, hselect, BitVec.getLsbD_extractLsb']
  rfl

/-- A generator selected by the XOR of two bits. -/
theorem selected_xor (a b : Bool) (g : PmWord) :
    (if (a ^^ b) then g else 0#40) = (if a then g else 0#40) ^^^ (if b then g else 0#40) := by
  cases a <;> cases b <;> simp

theorem xor_and_right (c c' m : PmWord) : (c ^^^ c') &&& m = (c &&& m) ^^^ (c' &&& m) := by
  ext i
  simp [Bool.and_xor_distrib_right]

/-- Settles O35: each part of the formula is linear, and the order of the XORs does not matter. -/
theorem pmStepIsLinear : Obligations.PmStepIsLinear := by
  refine ⟨fun c c' d d' => ?_, by decide⟩
  have hformula : ∀ c d, pmStep c d = _ := pmStepFormula
  simp only [hformula, xor_and_right, BitVec.shiftLeft_xor_distrib, BitVec.setWidth_xor, BitVec.getLsbD_xor,
    selected_xor]
  ac_rfl

/-- Linearity with the value in one of the two steps alone. -/
theorem pmStep_xor_left (c c' : PmWord) (d : Sym) : pmStep (c ^^^ c') d = pmStep c 0#5 ^^^ pmStep c' d := by
  rw [← pmStepIsLinear.1, BitVec.zero_xor]

/-- The 35-bit mask keeps what a shift by 5 keeps. -/
theorem pmMask35_shift (c : PmWord) : (c &&& pmMask35) <<< 5 = c <<< 5 := by
  have hmask : pmMask35 <<< 5 = BitVec.allOnes 40 <<< 5 := by decide
  rw [BitVec.shiftLeft_and_distrib, hmask, ← BitVec.shiftLeft_and_distrib, BitVec.and_allOnes]

/-- With no bit among the top five the step is a plain shift and XOR (R133). -/
theorem pmStep_of_top_zero {c : PmWord} (h : c.extractLsb' 35 5 = 0#5) (d : Sym) :
    pmStep c d = (c <<< 5) ^^^ d.setWidth 40 := by
  rw [pmStep, h, pmMask35_shift]
  rfl

/-- On words without a common set bit OR is XOR. -/
theorem or_eq_xor_of_disjoint {x y : PmWord} (h : x &&& y = 0#40) : x ||| y = x ^^^ y := by
  have hbool : ∀ a b : Bool, (a && b) = false → (a || b) = (a ^^ b) := by decide
  ext i hi
  rw [BitVec.getElem_or, BitVec.getElem_xor]
  apply hbool
  rw [← BitVec.getElem_and, h, BitVec.getElem_zero]

/-- The low 35 bits and a part above them enter the step apart from each other. -/
theorem pmStep_low_or_top (c : PmWord) (d : Sym) {top : PmWord} (h : 0x07FFFFFFFF#40 &&& top = 0#40) :
    pmStep ((c &&& 0x07FFFFFFFF#40) ||| top) d
      = pmStep top 0#5 ^^^ ((c &&& 0x07FFFFFFFF#40) <<< 5) ^^^ d.setWidth 40 := by
  have hdisj : (c &&& 0x07FFFFFFFF#40) &&& top = 0#40 := by rw [BitVec.and_assoc, h, BitVec.and_zero]
  have htop : (c &&& 0x07FFFFFFFF#40).extractLsb' 35 5 = 0#5 := by
    rw [BitVec.extractLsb'_and, show (0x07FFFFFFFF#40).extractLsb' 35 5 = 0#5 by decide, BitVec.and_zero]
  rw [or_eq_xor_of_disjoint hdisj, BitVec.xor_comm, pmStep_xor_left, pmStep_of_top_zero htop, BitVec.xor_assoc]

/-- Settles O34: the low bits enter by the plain shift, and the step of each top bit alone is evaluated. -/
theorem generatorTable : Obligations.GeneratorTable := by
  intro c d
  refine ⟨?_, ?_, ?_, ?_, ?_⟩ <;> exact pmStep_low_or_top c d (by decide)

end Sys2Proof.Machine
end

section
/-! The eight symbols of a 40-bit value (R30) under the step: while the top symbol is 0 the accumulator is a shift
register of symbols, so eight steps from 0 hold exactly the eight values. -/

namespace Sys2Proof.Machine

/-- A 5-bit group, by shift and mask or as a field. -/
theorem group_eq_extract (r : PmWord) (n : Nat) : ((r >>> n) &&& 31#40).setWidth 5 = r.extractLsb' n 5 := by
  have hmask : (31#40).setWidth 5 = BitVec.allOnes 5 := by decide
  rw [BitVec.setWidth_and, hmask, BitVec.and_allOnes]
  rfl

theorem eightSymbols_eq (r : PmWord) :
    eightSymbols r = [35, 30, 25, 20, 15, 10, 5, 0].map fun n => r.extractLsb' n 5 := by
  simp only [eightSymbols, group_eq_extract, List.map_cons, List.map_nil, Nat.reduceMul]

/-- The derived symbols `PM_SYM[0..7]` are the eight groups of `PM_RES` (R30). -/
theorem pmSym_list (s : State) : (List.finRange 8).map (pmSym s) = eightSymbols s.pmRes := by
  rw [eightSymbols_eq]
  rfl

/-- A 40-bit value is determined by its eight symbols. -/
theorem eightSymbols_inj {r r' : PmWord} : eightSymbols r = eightSymbols r' ↔ r = r' := by
  refine ⟨fun h => ?_, congrArg eightSymbols⟩
  simp only [eightSymbols_eq, List.map_cons, List.map_nil, List.cons.injEq, and_true, BitVec.toNat_eq,
    toNat_extractLsb'_eq_div] at h
  have := r.isLt
  have := r'.isLt
  apply BitVec.eq_of_toNat_eq
  omega

/-- The symbol at bit `n` moves up by five bits, if the top symbol is 0. -/
theorem pmStep_symbol_succ {c : PmWord} (h : c.extractLsb' 35 5 = 0#5) (d : Sym) {n : Nat} (hn : n ≤ 30) :
    (pmStep c d).extractLsb' (n + 5) 5 = c.extractLsb' n 5 := by
  rw [pmStep_of_top_zero h]
  ext i hi
  have hshift : n + 5 + i = n + i + 5 := by omega
  have hin : n + i + 5 < 40 := by omega
  simp [hshift, hin, BitVec.getLsbD_eq_getElem (show n + i < 40 by omega)]

theorem pmStep_symbol_zero {c : PmWord} (h : c.extractLsb' 35 5 = 0#5) (d : Sym) :
    (pmStep c d).extractLsb' 0 5 = d := by
  rw [pmStep_of_top_zero h]
  ext i hi
  have hin : i < 40 := by omega
  simp [hi, hin]

/-- A step without a top symbol moves every symbol up by one and puts the value last. -/
theorem eightSymbols_pmStep {c : PmWord} {rest : List Sym} (h : eightSymbols c = 0#5 :: rest) (d : Sym) :
    eightSymbols (pmStep c d) = rest ++ [d] := by
  rw [eightSymbols_eq, List.map_cons, List.cons.injEq] at h
  obtain ⟨htop, rfl⟩ := h
  have hle : ∀ n ∈ [30, 25, 20, 15, 10, 5, 0], n ≤ 30 := by decide
  have hmove : ∀ n ∈ [30, 25, 20, 15, 10, 5, 0], (pmStep c d).extractLsb' (n + 5) 5 = c.extractLsb' n 5 :=
    fun n hn => pmStep_symbol_succ htop d (hle n hn)
  calc eightSymbols (pmStep c d)
    _ = ([30, 25, 20, 15, 10, 5, 0].map fun n => (pmStep c d).extractLsb' (n + 5) 5)
          ++ [(pmStep c d).extractLsb' 0 5] := eightSymbols_eq _
    _ = ([30, 25, 20, 15, 10, 5, 0].map fun n => c.extractLsb' n 5) ++ [d] := by
      rw [List.map_congr_left hmove, pmStep_symbol_zero htop]

/-- While there is room, the values follow one another after the symbols held before. -/
theorem eightSymbols_foldl_pmStep (symbols : List Sym) {c : PmWord} {rest : List Sym}
    (h : eightSymbols c = List.replicate symbols.length 0#5 ++ rest) :
    eightSymbols (symbols.foldl pmStep c) = rest ++ symbols := by
  induction symbols generalizing c rest with
  | nil => rw [List.append_nil]; exact h
  | cons d symbols ih =>
    have hd : eightSymbols (pmStep c d) = List.replicate symbols.length 0#5 ++ (rest ++ [d]) :=
      (eightSymbols_pmStep h d).trans (List.append_assoc ..)
    rw [List.foldl_cons, ih hd, List.append_assoc, List.singleton_append]

/-- Eight steps from 0 leave the eight values. -/
theorem eightSymbols_of_eight {check : List Sym} (h : check.length = 8) :
    eightSymbols (check.foldl pmStep 0#40) = check :=
  eightSymbols_foldl_pmStep check (rest := []) (by rw [h]; decide)

/-- Linearity over a list of values: what was there before is stepped with zeros. -/
theorem foldl_pmStep_xor (symbols : List Sym) (c c' : PmWord) :
    symbols.foldl pmStep (c ^^^ c')
      = (List.replicate symbols.length 0#5).foldl pmStep c ^^^ symbols.foldl pmStep c' := by
  induction symbols generalizing c c' with
  | nil => rfl
  | cons d symbols ih => rw [List.foldl_cons, pmStep_xor_left, ih]; rfl

/-- The values that end a sequence enter its `polymod` as they would alone, in the place of the placeholder. -/
theorem polymod_append (values symbols : List Sym) :
    polymod (values ++ symbols)
      = polymod (values ++ List.replicate symbols.length 0#5) ^^^ symbols.foldl pmStep 0#40 := by
  have hxor := foldl_pmStep_xor symbols (values.foldl pmStep 1#40) 0#40
  rw [BitVec.xor_zero] at hxor
  rw [polymod, polymod, List.foldl_append, List.foldl_append, hxor]
  ac_rfl

/-- Eight last symbols make `polymod` 0 when they are those it leaves in their placeholder, and only then. -/
theorem polymod_append_eq_zero_iff (values : List Sym) {check : List Sym} (h : check.length = 8) :
    polymod (values ++ check) = 0#40 ↔ check = eightSymbols (polymod (values ++ List.replicate 8 0#5)) := by
  rw [polymod_append, h, BitVec.xor_eq_zero_iff, ← eightSymbols_inj, eightSymbols_of_eight h, eq_comm]

end Sys2Proof.Machine
end

section
/-! The four commands in a state without an error, and the sequences that the laws name (R132 to R137, R139). -/

namespace Sys2Proof.Machine

variable {s : State}

/-! ### The commands -/

/-- A computation is going on with `c` in the accumulator; nothing else differs from `s`. -/
def State.computing (s : State) (c : PmWord) : State := { s with pmC := c, pmRdy := false }

/-- A computation has ended with `c` in the accumulator; nothing else differs from `s`. -/
def State.published (s : State) (c : PmWord) : State := { s with pmC := c, pmRes := c ^^^ 1#40, pmRdy := true }

/-- `PM_ZERO` after a computation (R135). -/
theorem pmZero_published (s : State) (c : PmWord) : pmZero (s.published c) = true ↔ c = 1#40 := by
  simp [pmZero, State.published, BitVec.xor_eq_zero_iff]

theorem exec_pmInit (he : s.err = false) : exec .pmInit s = .next (s.computing 1#40) := unlessErr_of_ok he _

theorem exec_pmFinal (he : s.err = false) : exec .pmFinal s = .next (s.published s.pmC) := unlessErr_of_ok he _

theorem exec_pmStepChar (he : s.err = false) (opnd : Byte) :
    exec (.pmStepChar opnd) s = .next (s.pmAdvance (opnd.extractLsb' 0 5)) := unlessErr_of_ok he _

/-- The two step commands differ in the range check alone (R133, R134), in the error state too. -/
theorem exec_pmStep_eq_pmStepChar {opnd : Byte} (ho : opnd.toNat ≤ 31) (s : State) :
    exec (.pmStep opnd) s = exec (.pmStepChar opnd) s := by
  rw [exec, execPmStep, symbolOperand_of_le ho]
  rfl

theorem exec_pmStep_range (he : s.err = false) {opnd : Byte} (ho : 31 < opnd.toNat) :
    exec (.pmStep opnd) s = raiseError .operandRange s := by
  rw [exec, execPmStep, symbolOperand_of_gt ho, unlessErr_of_ok he]

/-- `PM_STEP_CHAR` reads the low five bits of its byte and no other. -/
theorem exec_pmStepChar_congr {b c : Byte} (h : b.extractLsb' 0 5 = c.extractLsb' 0 5) (s : State) :
    exec (.pmStepChar b) s = exec (.pmStepChar c) s := by
  rw [exec, exec, execPmStepChar, execPmStepChar, charSymbol, charSymbol, h]

/-- Settles O36: the effect of the command, and the registers by evaluation. -/
theorem pmInitStartsComputation : Obligations.PmInitStartsComputation := by
  refine ⟨fun w => decode_of_opcField (i := .pmInit), fun s he => ⟨exec_pmInit he, fun t h => ?_⟩⟩
  rw [exec_pmInit he] at h
  cases h
  exact ⟨rfl, rfl, show ((1#40).extractLsb' 32 8).setWidth 32 = 0#32 by decide⟩

/-- Settles O37: in range it is `PM_STEP_CHAR`, above 31 the error. -/
theorem pmStepCommand : Obligations.PmStepCommand := by
  refine ⟨fun w => decode_of_opcField (i := .pmStep 0#8), fun opnd s he => ⟨fun ho => ?_, exec_pmStep_range he⟩⟩
  rw [exec_pmStep_eq_pmStepChar ho]
  exact exec_pmStepChar he opnd

/-- Settles O38: a masked byte is in range and has the same low five bits, and so have the codes of `a` and `A`. -/
theorem pmStepCharCommand : Obligations.PmStepCharCommand := by
  refine ⟨fun w => decode_of_opcField (i := .pmStepChar 0#8),
    fun opnd s => ⟨fun he => exec_pmStepChar he opnd, ?_, exec_pmStepChar_congr (by decide) s⟩⟩
  have hrange : (opnd &&& 0x1F#8).toNat ≤ 31 := by
    rw [BitVec.toNat_and]
    exact Nat.and_le_right
  have hlow : opnd.extractLsb' 0 5 = (opnd &&& 0x1F#8).extractLsb' 0 5 := by
    have hmask : (0x1F#8).extractLsb' 0 5 = BitVec.allOnes 5 := by decide
    rw [BitVec.extractLsb'_and, hmask, BitVec.and_allOnes]
  rw [exec_pmStep_eq_pmStepChar hrange]
  exact exec_pmStepChar_congr hlow s

/-- Settles O39: the effect of the command, which leaves `PM_C` for a second one. -/
theorem pmFinalPublishesResult : Obligations.PmFinalPublishesResult := by
  refine ⟨fun w => decode_of_opcField (i := .pmFinal), fun s he => ⟨exec_pmFinal he, fun t h => ?_⟩⟩
  rw [exec_pmFinal he] at h
  cases h
  exact ⟨pmZero_published s s.pmC, exec_pmFinal he⟩

/-! ### Letter case -/

/-- Lowercasing keeps the low five bits: it can only set bit 5 (R141). -/
theorem asciiLower_low (c : Byte) : (asciiLower c).extractLsb' 0 5 = c.extractLsb' 0 5 := by
  have hbit : (0x20#8).extractLsb' 0 5 = 0#5 := by decide
  rw [asciiLower]
  split
  · rw [BitVec.extractLsb'_or, hbit, BitVec.or_zero]
  · rfl

/-- Lowercasing has no effect on what the characters step in, in the error state too (R141). -/
theorem run_pmStr_asciiLower (chars : List Byte) (s : State) :
    runCommands (Pseudo.pmStr (chars.map asciiLower)).expand s = runCommands (Pseudo.pmStr chars).expand s := by
  induction chars generalizing s with
  | nil => rfl
  | cons c chars ih =>
    change runCommands (.pmStepChar (asciiLower c) :: (Pseudo.pmStr (chars.map asciiLower)).expand) s
      = runCommands (.pmStepChar c :: (Pseudo.pmStr chars).expand) s
    rw [runCommands, runCommands, exec_pmStepChar_congr (asciiLower_low c)]
    cases exec (.pmStepChar c) s with
    | next t => exact ih t
    | fault | refused => rfl

/-- Settles O44: both prefixes step as the lowercased one does. -/
theorem prefixCaseHasNoEffect : Obligations.PrefixCaseHasNoEffect := by
  intro p q s h
  rw [← run_pmStr_asciiLower p, h, run_pmStr_asciiLower]

/-! ### The sequences -/

/-- The command steps with the value: a `PM_STEP` of it, or a `PM_STEP_CHAR` of a byte with these low five bits
(R136). -/
abbrev StepsWith (i : Instr) (v : Sym) : Prop :=
  i = .pmStep (symbolOpnd v) ∨ ∃ x : Byte, i = .pmStepChar x ∧ x.extractLsb' 0 5 = v

theorem exec_of_steps (he : s.err = false) {i : Instr} {v : Sym} (h : StepsWith i v) :
    exec i s = .next (s.computing (pmStep s.pmC v)) := by
  obtain rfl | ⟨x, rfl, rfl⟩ := h
  · have hlow : (symbolOpnd v).extractLsb' 0 5 = v := setWidth_lane v
    rw [exec_pmStep_eq_pmStepChar (opnd := symbolOpnd v) (setWidth_sym_le v), exec_pmStepChar he, hlow]
    rfl
  · exact exec_pmStepChar he x

/-- Steps that go with values put these into the accumulator, in order. -/
theorem run_steps {commands : List Instr} {values : List Sym} (h : List.Forall₂ StepsWith commands values)
    (he : s.err = false) (c : PmWord) :
    runCommands commands (s.computing c) = .next (s.computing (values.foldl pmStep c)) := by
  induction h generalizing c with
  | nil => rfl
  | cons hi _ ih => exact (runCommands_cons (exec_of_steps (s := s.computing c) he hi)).trans (ih _)

/-- A whole computation: a start, the steps and the closing XOR. -/
theorem run_polymod {commands : List Instr} {values : List Sym} (h : List.Forall₂ StepsWith commands values)
    (he : s.err = false) :
    runCommands ([.pmInit] ++ commands ++ [.pmFinal]) s = .next (s.published (values.foldl pmStep 1#40)) := by
  have hinit := (runCommands_cons (exec_pmInit he)).trans (run_steps h he 1#40)
  exact (runCommands_append hinit).trans (runCommands_cons (exec_pmFinal he))

theorem steps_pmSyms (symbols : List Sym) : List.Forall₂ StepsWith (Pseudo.pmSyms symbols).expand symbols :=
  List.forall₂_map_left_iff.2 (List.forall₂_same.2 fun _ _ => .inl rfl)

theorem steps_pmStr (chars : List Byte) :
    List.Forall₂ StepsWith (Pseudo.pmStr chars).expand (chars.map fun c => (asciiLower c).setWidth 5) :=
  List.forall₂_map_left_iff.2 (List.forall₂_map_right_iff.2 (List.forall₂_same.2 fun c _ =>
    .inr ⟨c, rfl, (asciiLower_low c).symm⟩))

theorem steps_prefixSymbols (chars : List Byte) :
    List.Forall₂ StepsWith ((Pseudo.pmStr chars).expand ++ Pseudo.pmSep.expand) (prefixSymbols chars) :=
  List.rel_append (steps_pmStr chars) (steps_pmSyms [0#5])

/-- The validation sequence is a whole computation over its three parts (R139). -/
theorem run_validateProc (chars : List Byte) (payload check : List Sym) (he : s.err = false) :
    runCommands (validateProc chars payload check) s
      = .next (s.published ((prefixSymbols chars ++ payload ++ check).foldl pmStep 1#40)) :=
  have hpayload := List.rel_append (steps_prefixSymbols chars) (steps_pmSyms payload)
  run_polymod (List.rel_append hpayload (steps_pmSyms check)) he

/-- The checksum sequence is the validation sequence over the placeholder (R137, R139). -/
theorem checksumProc_eq_validateProc (chars : List Byte) (payload : List Sym) :
    checksumProc chars payload = validateProc chars payload (List.replicate 8 0#5) := rfl

theorem prefixSymbols_congr {p q : List Byte} (h : p.map asciiLower = q.map asciiLower) :
    prefixSymbols p = prefixSymbols q := by
  simpa [prefixSymbols, Function.comp_def] using congrArg (List.map (BitVec.setWidth 5)) h

theorem foldl_eq_one_iff_polymod (values : List Sym) : values.foldl pmStep 1#40 = 1#40 ↔ polymod values = 0#40 :=
  BitVec.xor_eq_zero_iff.symm

/-- Settles O40: the computation publishes the values stepped in from 1, XORed with 1. -/
theorem stepsComputePolymod : Obligations.StepsComputePolymod := by
  intro commands values s he h
  exact ⟨_, run_polymod h he, rfl, rfl, he⟩

/-- Settles O41: the sequence computes `polymod` with either letter case, and `PM_SYM` holds its eight symbols. -/
theorem checksumSequence : Obligations.ChecksumSequence := by
  intro chars stepped payload s he h
  rw [checksumProc_eq_validateProc]
  refine ⟨_, run_validateProc stepped payload (List.replicate 8 0#5) he, ?_, rfl, he⟩
  rw [pmSym_list, prefixSymbols_congr h]
  rfl

/-- Settles O42: the sequence publishes `polymod` of its values, which is 0 when the accumulator is 1. -/
theorem validationSequence : Obligations.ValidationSequence := by
  intro chars payload check s he _
  have hzero := pmZero_published s ((prefixSymbols chars ++ payload ++ check).foldl pmStep 1#40)
  refine ⟨_, run_validateProc chars payload check he, he, hzero.trans (foldl_eq_one_iff_polymod _), fun h => ?_⟩
  exact ⟨hzero.1 h, (foldl_eq_one_iff_polymod _).1 (hzero.1 h)⟩

/-- Settles O43: `polymod` is 0 for the symbols left in the placeholder and for no others, by linearity. -/
theorem validationAcceptsExactlyTheChecksum : Obligations.ValidationAcceptsExactlyTheChecksum := by
  intro chars payload check s he h8
  obtain ⟨t, hrun, -, hzero, -⟩ := validationSequence chars payload check s he h8
  exact ⟨t, hrun, hzero.trans (polymod_append_eq_zero_iff _ h8)⟩

end Sys2Proof.Machine
end

section
/-! The control commands (R160, R161): what `SOFT_RESET` and `NOP` do from every state. -/

namespace Sys2Proof.Machine

/-- A reset of a block that has been reset changes nothing: what it keeps is what the first one kept. -/
@[simp] theorem resetElements_resetElements (s : State) : resetElements (resetElements s) = resetElements s := rfl

theorem performEvent_resetInput (s : State) : performEvent .resetInput s = .next (resetElements s) := rfl

/-- Every register reads after a reset as it does in the state after reset: none shows what the port keeps. -/
theorem hostRead_resetElements (idx : RegIdx) (s : State) : hostRead idx (resetElements s) = hostRead idx State.reset :=
  rfl

/-- `NOP` answers the same state, in the error state too (R160, R172). -/
theorem exec_nop (s : State) : exec .nop s = .next s := rfl

/-- Settles O19: the command's next state is `resetElements s`, which is also the reset input's and is its own reset. -/
theorem softResetFromEveryState : Obligations.SoftResetFromEveryState := by
  refine ⟨fun w => decode_softReset, fun s => ⟨resetElements s, exec_softReset s, ?_⟩⟩
  have hagain : exec .softReset (resetElements s) = .next (resetElements s) := by
    rw [exec_softReset, resetElements_resetElements]
  have hstatus : hostRead 0x1#4 (resetElements s) = 0#32 := by
    rw [hostRead_resetElements]
    rfl
  simp [performEvent_resetInput, hagain, hstatus]

/-- Settles O20: a word with the opcode of `NOP` decodes to `NOP`, and the step executes what it decodes to. -/
theorem nopChangesNothing : Obligations.NopChangesNothing := by
  refine ⟨exec_nop, fun s w rest hr hw hp => ?_⟩
  obtain ⟨-, -, -, hstep⟩ := stepRunsDecodedCommand s w rest hr hp
  have hdecode : decode w = .ok .nop := decode_of_opcField (i := .nop) hw
  exact (hstep .nop hdecode).trans (exec_nop _)

end Sys2Proof.Machine
end

section
/-! Which words of a block raise an error, and which of the checks decides (R171 to R173). -/

namespace Sys2Proof.Machine

variable {s t : State} {i : Instr} {w : Word}

/-- The word of a command whose operand is read holds it in its low byte (R71). -/
theorem withOpnd_of_decode (h : decode w = .ok i) : i.withOpnd (opndField w) = i :=
  Except.ok.inj ((decode_of_opcField (opcField_of_decode h)).symm.trans h)

/-- The check of the mode applies to the word `w` (R173, the third check). -/
abbrev State.RefusesMode (s : State) (w : Word) : Prop :=
  ((opcField w).toNat = 0x12 ∧ s.bpMode ≠ .pack) ∨ ((opcField w).toNat = 0x13 ∧ s.bpMode ≠ .unpack)

/-- The check of the operand applies to the word `w` (R173, the fourth check). -/
abbrev OperandTooLarge (w : Word) : Prop :=
  ((opcField w).toNat = 0x13 ∨ (opcField w).toNat = 0x21) ∧ 31 < (opndField w).toNat

/-- A command that fails is the command of a word to which a check of R173 applies. -/
theorem CommandFails.word {code : ErrCode} (h : CommandFails s i code) (hd : decode w = .ok i) :
    s.RefusesMode w ∨ OperandTooLarge w := by
  have hopc := congrArg BitVec.toNat (opcField_of_decode hd)
  have hopnd := withOpnd_of_decode hd
  cases h with
  | packMode b hm => exact .inl (.inl ⟨hopc, hm⟩)
  | unpackMode b hm => exact .inl (.inr ⟨hopc, hm⟩)
  | unpackRange b hm hb => cases hopnd; exact .inr ⟨.inl hopc, hb⟩
  | stepRange b hb => cases hopnd; exact .inr ⟨.inr hopc, hb⟩

theorem executeWord_of_unmapped (he : s.err = false) (hw : (opcField w).toNat ∉ mappedOpcodes) :
    executeWord w s = raiseError .illegalOpcode s := by
  obtain ⟨e, hd⟩ := decode_error_iff_unmapped.2 hw
  rw [executeWord_of_illegal hd, unlessErr_of_ok he]

theorem executeWord_of_mode (he : s.err = false) (hw : s.RefusesMode w) :
    executeWord w s = raiseError .modeConflict s := by
  obtain ⟨hopc, hm⟩ | ⟨hopc, hm⟩ := hw
  · have hd : decode w = .ok (.bpPackByte (opndField w)) :=
      decode_of_opcField (i := .bpPackByte 0#8) (BitVec.eq_of_toNat_eq hopc)
    rw [executeWord_of_decode hd, exec_bpPackByte_conflict he hm]
  · have hd : decode w = .ok (.bpUnpackSym (opndField w)) :=
      decode_of_opcField (i := .bpUnpackSym 0#8) (BitVec.eq_of_toNat_eq hopc)
    rw [executeWord_of_decode hd, exec_bpUnpackSym_conflict he hm]

/-- The operand is checked after the mode (R173). -/
theorem executeWord_of_operand (he : s.err = false) (hm : ¬ s.RefusesMode w) (hw : OperandTooLarge w) :
    executeWord w s = raiseError .operandRange s := by
  obtain ⟨hopc | hopc, ho⟩ := hw
  · have hd : decode w = .ok (.bpUnpackSym (opndField w)) :=
      decode_of_opcField (i := .bpUnpackSym 0#8) (BitVec.eq_of_toNat_eq hopc)
    have hmode : s.bpMode = .unpack := by
      by_contra hne
      exact hm (.inr ⟨hopc, hne⟩)
    rw [executeWord_of_decode hd, exec_bpUnpackSym_range he hmode ho]
  · have hd : decode w = .ok (.pmStep (opndField w)) :=
      decode_of_opcField (i := .pmStep 0#8) (BitVec.eq_of_toNat_eq hopc)
    rw [executeWord_of_decode hd, exec_pmStep_range he ho]

/-- From a state without an error, `ERR` is set by a failing check of the command and by nothing else (R171). -/
theorem exec_raises (h : exec i s = .next t) (he : s.err = false) (ht : t.err = true) :
    ∃ code, CommandFails s i code ∧ t = { s with err := true, errCode := code } := by
  have hi : i ≠ .softReset := by
    rintro rfl
    cases h
    cases ht
  have hne : ¬ s.SameError t := fun ⟨herr, _⟩ => by simp [he, ht] at herr
  exact ((exec_effect h).error_changed hi hne).2

/-- A command none of whose checks apply ends without an error, `SOFT_RESET` in the error state too. -/
theorem exec_err_false (h : exec i s = .next t) (hi : s.err = true → i = .softReset)
    (hf : ∀ code, ¬ CommandFails s i code) : t.err = false := by
  cases he : s.err with
  | true => cases hi he; cases h; rfl
  | false =>
    by_contra ht
    obtain ⟨code, hfails, -⟩ := exec_raises h he (Bool.eq_true_of_not_eq_false ht)
    exact hf code hfails

/-- A word of the map to which no check applies completes without an error (R173). -/
theorem executeWord_completes (hgate : s.err = true → opcField w = 0x01#8) (hmap : (opcField w).toNat ∈ mappedOpcodes)
    (hm : ¬ s.RefusesMode w) (ho : ¬ OperandTooLarge w) (hl : s.liveOk) :
    ∃ t, executeWord w s = .next t ∧ t.err = false := by
  cases hd : decode w with
  | error e => exact absurd hmap (decode_error_iff_unmapped.1 ⟨e, hd⟩)
  | ok i =>
    rw [executeWord_of_decode hd]
    obtain ⟨t, ht⟩ := exec_answers i hl
    have hreset : s.err = true → i = .softReset := fun he =>
      Except.ok.inj (hd.symm.trans (decode_softReset (hgate he)))
    exact ⟨t, ht, exec_err_false ht hreset fun code hf => (hf.word hd).elim hm ho⟩

/-! ### The first check decides -/

/-- Past the gate of the error state, a word other than `SOFT_RESET` finds no error (R172). -/
theorem err_false_of_gate (hgate : s.err = true → opcField w = 0x01#8) (hw : (opcField w).toNat ≠ 0x01) :
    s.err = false :=
  Bool.eq_false_of_not_eq_true fun he => hw (congrArg BitVec.toNat (hgate he))

theorem opc_ne_softReset_of_unmapped (h : (opcField w).toNat ∉ mappedOpcodes) : (opcField w).toNat ≠ 0x01 :=
  fun h1 => h (by rw [h1]; decide)

theorem State.RefusesMode.opc_ne_softReset (h : s.RefusesMode w) : (opcField w).toNat ≠ 0x01 := by
  obtain ⟨hopc, -⟩ | ⟨hopc, -⟩ := h <;> omega

theorem OperandTooLarge.opc_ne_softReset (h : OperandTooLarge w) : (opcField w).toNat ≠ 0x01 := by
  obtain ⟨hopc | hopc, -⟩ := h <;> omega

/-- Settles O45: one case per check, in the order of R173. -/
theorem errorPriority : Obligations.ErrorPriority := by
  intro w s
  dsimp only
  split
  next h => exact executeWord_of_err h.1 fun hw => h.2 (congrArg BitVec.toNat hw)
  next hnot =>
    have hgate : s.err = true → opcField w = 0x01#8 := fun he =>
      BitVec.eq_of_toNat_eq (not_not.1 fun hne => hnot ⟨he, hne⟩)
    split
    next hw => exact executeWord_of_unmapped (err_false_of_gate hgate (opc_ne_softReset_of_unmapped hw)) hw
    next hmap =>
      split
      next hw => exact executeWord_of_mode (err_false_of_gate hgate (State.RefusesMode.opc_ne_softReset hw)) hw
      next hm =>
        split
        next hw => exact executeWord_of_operand (err_false_of_gate hgate (OperandTooLarge.opc_ne_softReset hw)) hm hw
        next ho => exact executeWord_completes hgate (not_not.1 hmap) hm ho

end Sys2Proof.Machine
end

section
/-! The error state: what is done in it, how a run goes on in it and what leaves it (R172, R175, R176). -/

namespace Sys2Proof.Machine

variable {s t : State}

theorem resetElements_atReset (s : State) : (resetElements s).AtReset := by simp [State.AtReset]

theorem executeWord_softReset {w : Word} (h : opcField w = 0x01#8) (s : State) :
    executeWord w s = .next (resetElements s) := by
  rw [executeWord_of_decode (decode_softReset h), exec_softReset]

/-- Settles O46: the gate of the error state for words, and the port's rule for reads, which does not ask for `ERR`. -/
theorem errorStateIgnoresCommands : Obligations.ErrorStateIgnoresCommands := by
  intro w s he
  refine ⟨executeWord_of_err he, fun hw => ⟨_, executeWord_softReset hw s, resetElements_atReset s⟩,
    fun idx rest hr => ?_⟩
  obtain ⟨-, -, hread, -⟩ := portAccessRights s idx 0#32 rest hr
  exact hread

/-- A run of commands in the error state that holds no `SOFT_RESET` changes nothing (R172). -/
theorem runCommands_of_err {commands : List Instr} (he : s.err = true) (h : .softReset ∉ commands) :
    runCommands commands s = .next s := by
  induction commands with
  | nil => rfl
  | cons i commands ih =>
    obtain ⟨hi, hrest⟩ := List.ne_and_not_mem_of_not_mem_cons h
    rw [runCommands_cons (exec_of_err he hi.symm), ih hrest]

/-- Settles O47: the failing command only raises its error, and the gate ignores the commands after it. -/
theorem errorsArePrecise : Obligations.ErrorsArePrecise := by
  intro before after i s t u hbefore ht hi hu hafter
  have hrun : runCommands (before ++ [i] ++ after) s = .next u := by
    rw [List.append_assoc, runCommands_append hbefore, List.singleton_append, runCommands_cons hi,
      runCommands_of_err hu hafter]
  obtain ⟨code, hf, rfl⟩ := exec_raises hi ht hu
  exact ⟨rfl, hf.code_ne_none, hrun⟩

/-- In the error state a performed host write is the write of `SOFT_RESET`, or it changes nothing (R172). -/
theorem performEvent_write_of_err {idx : RegIdx} {w : Word} (he : s.err = true)
    (h : performEvent (.write idx w) s = .next t) :
    (isSoftResetWrite idx w = true ∧ t = resetElements s) ∨ t = s := by
  by_cases hw : isSoftResetWrite idx w = true
  · rw [performEvent_softResetWrite hw] at h
    cases h
    exact .inl ⟨hw, rfl⟩
  · right
    cases hr : s.ready with
    | false => simp [performEvent, hr, hw] at h
    | true =>
      by_cases hi : idx = 0x0#4
      · subst hi
        have hopc : opcField w ≠ 0x01#8 := fun hopc => hw (isSoftResetWrite_iff.2 ⟨rfl, hopc⟩)
        rw [performEvent_write_cmd hr, executeWord_of_err he hopc] at h
        cases h
        rfl
      · rw [performEvent_write_other hr hi] at h
        cases h
        rfl

/-- A read changes the replies alone, whenever it is performed (R35). -/
theorem performEvent_read_next {idx : RegIdx} (h : performEvent (.read idx) s = .next t) :
    t = { s with replies := s.replies ++ [hostRead idx s] } := by
  by_cases hr : s.ready = true
  · rw [performEvent_read hr] at h
    exact (Host.Outcome.next.inj h).symm
  · simp [performEvent, hr] at h

/-- The events that leave the error state, but for a loss of power, are the two resets (R176). -/
theorem performEvent_leaves_error {e : Event} (he : s.err = true) (hp : e ≠ .powerLoss)
    (h : performEvent e s = .next t) (ht : t.err = false) :
    t = resetElements s ∧ (e = .resetInput ∨ ∃ w, e = .write 0x0#4 w ∧ decode w = .ok .softReset) := by
  cases e with
  | write idx w =>
    obtain ⟨hw, hreset⟩ | rfl := performEvent_write_of_err he h
    · obtain ⟨rfl, hopc⟩ := isSoftResetWrite_iff.1 hw
      exact ⟨hreset, .inr ⟨w, rfl, decode_softReset hopc⟩⟩
    · simp [he] at ht
  | read idx =>
    cases performEvent_read_next h
    simp [he] at ht
  | resetInput =>
    cases h
    exact ⟨rfl, .inl rfl⟩
  | powerLoss => exact absurd rfl hp

/-- Settles O48: with nothing pending the block holds its error, and of the events only the two resets clear it. -/
theorem errorLeftOnlyByReset : Obligations.ErrorLeftOnlyByReset := by
  intro s t he hpower h ht
  cases hp : s.pending with
  | nil =>
    rw [step_of_idle hp] at h
    cases h
    simp [he] at ht
  | cons e rest =>
    rw [step_of_pending hp] at h
    have hne : e ≠ .powerLoss := fun hloss => hpower rest (hloss ▸ hp)
    obtain ⟨rfl, hevent⟩ := performEvent_leaves_error (s := { s with pending := rest }) he hne h ht
    refine ⟨resetElements_atReset _, ?_⟩
    obtain rfl | ⟨w, rfl, hd⟩ := hevent
    · exact .inl ⟨rest, rfl⟩
    · exact .inr ⟨w, rest, rfl, hd⟩

end Sys2Proof.Machine
end

section
/-! The values of R179: no command produces them, no run from reset reaches them, and the commands that read the live
bits refuse them. -/

namespace Sys2Proof.Machine

variable {s t : State}

/-- Settles O55: the effects of the commands keep the relations, and the three codes are those of the types. -/
theorem commandsKeepElementRelations : Obligations.CommandsKeepElementRelations :=
  ⟨fun _ _ _ hs h => (exec_effect h).elementsOk hs,
    fun s => ⟨s.bpMode.toBits_le, Nat.le_of_lt_succ s.bpOcnt.isLt, s.errCode.toBits_le⟩⟩

theorem executeWord_pending {w : Word} (h : executeWord w s = .next t) : t.pending = s.pending := by
  have hself := executeWord_withPort s.pending s.replies w s
  rw [h] at hself
  have ht : t = t.withPort s.pending s.replies := Host.Outcome.next.inj (h.symm.trans hself)
  exact (congrArg State.pending ht).trans rfl

/-- An event other than a loss of power leaves a ready block ready and takes nothing from what waits behind it. -/
theorem performEvent_ready_pending {e : Event} (hr : s.ready = true) (hp : e ≠ .powerLoss)
    (h : performEvent e s = .next t) : t.ready = true ∧ t.pending = s.pending := by
  cases e with
  | write idx w =>
    by_cases hi : idx = 0x0#4
    · subst hi
      rw [performEvent_write_cmd hr] at h
      exact ⟨executeWord_ready hr h, executeWord_pending h⟩
    · rw [performEvent_write_other hr hi] at h
      cases h
      exact ⟨hr, rfl⟩
  | read idx =>
    cases performEvent_read_next h
    exact ⟨hr, rfl⟩
  | resetInput =>
    cases h
    exact ⟨rfl, rfl⟩
  | powerLoss => exact absurd rfl hp

/-- What a run without a loss of power keeps: a reset has happened, the relations hold, no loss of power waits. -/
structure State.Powered (s : State) : Prop where
  ready : s.ready = true
  elements : s.elementsOk
  noLoss : .powerLoss ∉ s.pending

theorem step_powered (hs : s.Powered) : ∃ t, step s = .next t ∧ t.Powered := by
  obtain ⟨hr, hok, hloss⟩ := hs
  obtain ⟨t, hstep⟩ := readyBlockNeverStops s (fun _ => hok) hr
  have hinv : t.Inv := stepKeepsElementRelations s t (fun _ => hok) hstep
  refine ⟨t, hstep, ?_⟩
  cases hp : s.pending with
  | nil =>
    rw [step_of_idle hp] at hstep
    cases hstep
    exact ⟨hr, hok, hloss⟩
  | cons e rest =>
    rw [hp] at hloss
    obtain ⟨hne, hrest⟩ := List.ne_and_not_mem_of_not_mem_cons hloss
    rw [step_of_pending hp] at hstep
    obtain ⟨htr, htp⟩ := performEvent_ready_pending (s := { s with pending := rest }) hr hne.symm hstep
    exact ⟨htr, hinv htr, htp ▸ hrest⟩

theorem run_powered (n : Nat) (hs : s.Powered) : ∃ t, core.run n s = .next t ∧ t.Powered := by
  induction n generalizing s with
  | zero => exact ⟨s, rfl, hs⟩
  | succ n ih =>
    obtain ⟨t, hstep, ht⟩ := step_powered hs
    rw [run_of_step n hstep]
    exact ih ht

/-- Settles O59: the state after reset with its accesses is powered, and every step keeps that. -/
theorem unreachableValuesStayUnreached : Obligations.UnreachableValuesStayUnreached := by
  intro accesses n hloss
  have hreset : ({ State.reset with pending := accesses } : State).Powered :=
    ⟨rfl, resetElements_elementsOk State.reset, hloss⟩
  obtain ⟨t, hrun, hready, hok, -⟩ := run_powered n hreset
  exact ⟨t, hrun, hready, hok⟩

/-- Settles O60: each of the three commands reaches the guard of the live bits, which refuses. -/
theorem unreachableStateRefused : Obligations.UnreachableStateRefused := by
  intro s he hl
  refine ⟨fun hm b => ?_, fun hm v hv => ?_, fun hm => ?_⟩
  · rw [exec, execBpPackByte, unlessErr_of_ok he, if_neg (not_not.2 hm), withLiveBits_of_not_ok hl]
  · rw [exec, execBpUnpackSym, unlessErr_of_ok he, if_neg (not_not.2 hm), symbolOperand_of_le hv]
    exact withLiveBits_of_not_ok hl _
  · rw [exec, execBpFlush, unlessErr_of_ok he, if_pos hm, withLiveBits_of_not_ok hl]

end Sys2Proof.Machine
end

section
/-! The blocks of a platform and the loss of power (R182, R184). -/

namespace Sys2Proof.Machine

/-- A step of block `k` writes at most block `k`. -/
theorem stepBlock_next {p q : Platform} {k : Nat} (h : p.stepBlock k = .next q) :
    q = p ∨ ∃ t, q = p.set k t := by
  rw [Platform.stepBlock] at h
  split at h
  next => cases h; exact .inl rfl
  next s _ =>
    split at h
    next t _ => cases h; exact .inr ⟨t, rfl⟩
    all_goals cases h

/-- Settles O15: the list of blocks changes at most at place `k`. -/
theorem blocksShareNothing : Obligations.BlocksShareNothing := by
  intro p q k j hj h
  obtain rfl | ⟨t, rfl⟩ := stepBlock_next h
  · exact ⟨rfl, rfl⟩
  · exact ⟨List.getElem?_set_ne hj.symm, List.length_set⟩

/-- Settles O17: the step answers the powered-up state, whose fields around the elements are these. -/
theorem powerLossNeedsReset : Obligations.PowerLossNeedsReset := by
  intro s rest hp
  have hstep : step s = .next (powerUp { s with pending := rest }) := step_of_pending hp
  exact ⟨_, hstep, powerUp_ready _, powerUp_pending _, powerUp_replies _⟩

end Sys2Proof.Machine
end

section
/-! A value of two registers (R197): two reads in a row see one state, and the two words together are its value. -/

namespace Sys2Proof.Machine

/-- Two reads in a row return the registers of the state they begin in (R60 d). -/
theorem run_two_reads {s : State} {idx idx' : RegIdx} {rest : List Event} (hr : s.ready = true)
    (hp : s.pending = .read idx :: .read idx' :: rest) :
    ∃ t, core.run 2 s = .next t ∧ t.replies = s.replies ++ [hostRead idx s, hostRead idx' s] := by
  obtain ⟨-, -, -, hreads⟩ := accessesInIssueOrder s s 0#32 0#32 idx idx' rest hr
  exact ⟨_, hreads hp, rfl⟩

/-- The two registers of a 40-bit value together are the value (R40, R41). -/
theorem halves_toNat (x : PmWord) :
    ((x.extractLsb' 32 8).setWidth 32).toNat * 2 ^ 32 + (x.extractLsb' 0 32).toNat = x.toNat := by
  rw [highHalf_toNat, lowHalf_toNat, Nat.div_add_mod']

/-- A byte lane of two words side by side is a lane of the lower word or of the upper one. -/
theorem lane_of_words (high : Nat) {low : Nat} (hlow : low < 2 ^ 32) (k : Fin 8) :
    (high * 2 ^ 32 + low) / 2 ^ (8 * k.val) % 256
      = if k.val < 4 then low / 2 ^ (8 * k.val) % 256 else high / 2 ^ (8 * (k.val - 4)) % 256 := by
  fin_cases k <;> dsimp <;> omega

/-- The two symbol registers together hold symbol `k` in byte lane `k` (R42). -/
theorem symLanes_pair_lane (sym : Fin 8 → Sym) (k : Fin 8) :
    ((symLanes (sym 4) (sym 5) (sym 6) (sym 7)).toNat * 2 ^ 32
      + (symLanes (sym 0) (sym 1) (sym 2) (sym 3)).toNat) / 2 ^ (8 * k.val) % 256 = (sym k).toNat := by
  rw [lane_of_words _ (BitVec.isLt _)]
  split
  next hk => exact symLanes_lane (fun j => sym ⟨j.val, by omega⟩) ⟨k.val, hk⟩
  next hk =>
    refine (symLanes_lane (fun j => sym ⟨j.val + 4, by omega⟩) ⟨k.val - 4, by omega⟩).trans ?_
    simp only [show k.val - 4 + 4 = k.val by omega]

/-- Settles O12: the replies are the two registers of one state (R60 d), whose numbers O50's lemmas give. -/
theorem twoRegisterReadsAgree : Obligations.TwoRegisterReadsAgree := by
  intro s rest hr
  refine ⟨fun hp => ?_, fun hp => ?_, fun hp => ?_⟩
  · obtain ⟨t, hrun, hreplies⟩ := run_two_reads hr hp
    exact ⟨t, _, _, hrun, hreplies, halves_toNat s.pmC⟩
  · obtain ⟨t, hrun, hreplies⟩ := run_two_reads hr hp
    exact ⟨t, _, _, hrun, hreplies, halves_toNat s.pmRes⟩
  · obtain ⟨t, hrun, hreplies⟩ := run_two_reads hr hp
    exact ⟨t, _, _, hrun, hreplies, symLanes_pair_lane (pmSym s)⟩

end Sys2Proof.Machine
end

section
/-! The two units beside each other (R200, R112): a BitPacker command acts on the BitPacker's elements and the error
elements alone, whatever state they stand in, and so its effect and that of a ChecksumEngine command commute. -/

namespace Sys2Proof.Machine

variable {s s' t u : State} {i j : Instr}

/-- All elements and all around them: states that agree on the four parts are one state. -/
theorem State.eq_of_same (hbp : s.SameBitPacker t) (hpm : s.SameChecksum t) (herr : s.SameError t)
    (hport : s.SamePort t) : s = t := by
  cases t
  obtain ⟨rfl, rfl, rfl, rfl, rfl, rfl⟩ := hbp
  obtain ⟨rfl, rfl, rfl⟩ := hpm
  obtain ⟨rfl, rfl⟩ := herr
  obtain ⟨rfl, rfl, rfl, rfl⟩ := hport
  rfl

/-- The BitPacker's elements and the error elements of `s`, with everything else as `around` has it. -/
def State.within (s around : State) : State :=
  { around with
    bpMode := s.bpMode, bpAcc := s.bpAcc, bpCnt := s.bpCnt, bpOut0 := s.bpOut0, bpOut1 := s.bpOut1, bpOcnt := s.bpOcnt
    err := s.err, errCode := s.errCode }

theorem State.within_of_same (hbp : s.SameBitPacker s') (herr : s.SameError s') : s.within s' = s' :=
  State.eq_of_same hbp ⟨rfl, rfl, rfl⟩ herr ⟨rfl, rfl, rfl, rfl⟩

section
variable (a : State)

theorem unlessErr_within {k k' : Result} (h : k' = mapNext (·.within a) k) :
    unlessErr (s.within a) k' = mapNext (·.within a) (unlessErr s k) :=
  ite_eq_apply_ite (mapNext (·.within a)) rfl h

theorem withLiveBits_within {k k' : Result} (h : k' = mapNext (·.within a) k) :
    withLiveBits (s.within a) k' = mapNext (·.within a) (withLiveBits s k) :=
  ite_eq_apply_ite (mapNext (·.within a)) h rfl

theorem packPush_within (b : Byte) (s : State) : packPush b (s.within a) = (packPush b s).within a :=
  ite_eq_apply_ite (fun u : State => u.within a) rfl rfl

theorem unpackPush_within (v : Sym) (s : State) : unpackPush v (s.within a) = (unpackPush v s).within a :=
  ite_eq_apply_ite (fun u : State => u.within a) rfl rfl

/-- A BitPacker command neither reads nor writes anything but the elements that `within` takes from `s`. -/
theorem exec_within (hi : i.isBitPacker = true) (s : State) :
    exec i (s.within a) = mapNext (·.within a) (exec i s) := by
  cases i with
  | bpStartPack | bpStartUnpack => exact unlessErr_within a rfl
  | bpPackByte b =>
    exact unlessErr_within a
      (ite_eq_apply_ite _ rfl (withLiveBits_within a (congrArg _ (packPush_within a b s))))
  | bpUnpackSym b =>
    refine unlessErr_within a (ite_eq_apply_ite _ rfl ?_)
    cases symbolOperand b with
    | none => rfl
    | some v => exact withLiveBits_within a (congrArg _ (unpackPush_within a v s))
  | bpFlush =>
    exact unlessErr_within a (ite_eq_apply_ite _ (withLiveBits_within a (ite_eq_apply_ite _ rfl rfl)) rfl)
  | nop | softReset | pmInit | pmStep | pmStepChar | pmFinal => simp [Instr.isBitPacker] at hi

end

/-- What a BitPacker command answers in a state that agrees with `s` on all it reads. -/
theorem exec_bitPacker_of_same (hi : i.isBitPacker = true) (hbp : s.SameBitPacker s') (herr : s.SameError s')
    (h : exec i s = .next t) : exec i s' = .next (t.within s') :=
  calc exec i s' = exec i (s.within s') := by rw [State.within_of_same hbp herr]
    _ = mapNext (·.within s') (exec i s) := exec_within s' hi s
    _ = .next (t.within s') := by rw [h, mapNext]

/-- Settles O54: a BitPacker command keeps to the elements of `within`, a ChecksumEngine command answers alike. -/
theorem unitsDoNotReadEachOther : Obligations.UnitsDoNotReadEachOther := by
  intro i s s' t herr h
  refine ⟨fun hi hbp => ?_, fun hi hpm => exec_answersAlike (.inl hi) ⟨hpm, herr⟩ t h⟩
  exact ⟨t.within s', exec_bitPacker_of_same hi hbp herr h, ⟨rfl, rfl, rfl, rfl, rfl, rfl⟩, rfl, rfl⟩

theorem not_checksum_of_bitPacker (hi : i.isBitPacker = true) : i ≠ .softReset ∧ i.isChecksum = false := by
  cases i with
  | bpStartPack | bpStartUnpack | bpPackByte | bpUnpackSym | bpFlush => simp [Instr.isChecksum]
  | nop | softReset | pmInit | pmStep | pmStepChar | pmFinal => simp [Instr.isBitPacker] at hi

/-- A command that ends without an error has not touched the error elements (R171). -/
theorem CommandEffect.sameError (h : CommandEffect s i t) (hi : i ≠ .softReset) (ht : t.err = false) :
    s.SameError t := by
  by_contra hne
  obtain ⟨-, code, -, rfl⟩ := h.error_changed hi hne
  cases ht

/-- Settles O53: each command does after the other what it does from `s`, and leaves what the other has written. -/
theorem unitsCommute : Obligations.UnitsCommute := by
  intro i j s t u hi hj hit ht hju hu
  obtain ⟨hireset, hipm⟩ := not_checksum_of_bitPacker hi
  obtain ⟨hjreset, hjbp⟩ := not_bitPacker_of_checksum_or_nop (.inl hj)
  have hst := exec_effect hit
  have hsu := exec_effect hju
  have hiu : exec i u = .next (t.within u) :=
    exec_bitPacker_of_same hi (hsu.sameBitPacker hjreset hjbp) (hsu.sameError hjreset hu) hit
  obtain ⟨v, hjt, huv, herr⟩ :=
    exec_answersAlike (.inl hj) ⟨hst.sameChecksum hireset hipm, hst.sameError hireset ht⟩ u hju
  have htv := exec_effect hjt
  have hbp : t.SameBitPacker v := htv.sameBitPacker hjreset hjbp
  have hport : u.SamePort v := by
    simp [State.SamePort, htv.samePort hjreset, hst.samePort hireset, hsu.samePort hjreset]
  have hv : t.within u = v := State.eq_of_same hbp huv (htv.sameError hjreset (herr.1.trans hu)) hport
  exact ⟨v, hjt, hv ▸ hiu, hbp, huv⟩

end Sys2Proof.Machine
end

section
/-! Resets (R190 to R192): which accesses a block refuses before its first reset, and what a reset leaves in the
elements and registers. -/

namespace Sys2Proof.Machine

variable {s : State}

theorem performEvent_read_refused (hr : s.ready = false) (idx : RegIdx) :
    performEvent (.read idx) s = .refused .accessBeforeReset := by simp [performEvent, hr]

theorem performEvent_write_refused (hr : s.ready = false) {idx : RegIdx} {w : Word}
    (hw : isSoftResetWrite idx w = false) : performEvent (.write idx w) s = .refused .accessBeforeReset := by
  simp [performEvent, hr, hw]

/-- An event whose effect is a reset of the elements is a step to the reset state that leaves the rest of the port. -/
theorem step_of_reset {e : Event} {rest : List Event} (hp : s.pending = e :: rest)
    (he : performEvent e { s with pending := rest } = .next (resetElements { s with pending := rest })) :
    ∃ t, step s = .next t ∧ t.AtReset ∧ t.ready = true ∧ t.pending = rest ∧ t.replies = s.replies :=
  ⟨_, (step_of_pending hp).trans he, resetElements_atReset _, rfl, rfl, rfl⟩

/-- Settles O16: the two refusals of the port, and the two events that are resets. -/
theorem accessBeforeResetRefused : Obligations.AccessBeforeResetRefused := by
  intro s idx w rest hr
  refine ⟨fun hp => ?_, fun hp hw => ?_, fun hp hi hw => ?_, fun hp => ?_⟩
  · rw [step_of_pending hp]
    exact performEvent_read_refused (s := { s with pending := rest }) hr idx
  · have hno : isSoftResetWrite idx w = false := by
      rw [Bool.eq_false_iff, Ne, isSoftResetWrite_iff]
      exact fun ⟨hi, hopc⟩ => hw.elim (· hi) (· hopc)
    rw [step_of_pending hp]
    exact performEvent_write_refused (s := { s with pending := rest }) hr hno
  · obtain ⟨t, hstep, hreset, hready, hpending, -⟩ :=
      step_of_reset hp (performEvent_softResetWrite (isSoftResetWrite_iff.2 ⟨hi, hw⟩))
    exact ⟨t, hstep, hreset, hready, hpending⟩
  · obtain ⟨t, hstep, hreset, hready, hpending, -⟩ := step_of_reset hp (performEvent_resetInput _)
    exact ⟨t, hstep, hreset, hready, hpending⟩

/-- In a state with every element at its reset value a reset changes at most that the block is ready. -/
theorem resetElements_of_atReset (h : s.AtReset) : resetElements s = { s with ready := true } := by
  obtain ⟨hmode, hacc, hcnt, hout0, hout1, hocnt, hc, hres, hrdy, herr, hcode⟩ := h
  exact State.eq_of_same ⟨hmode, hacc, hcnt, hout0, hout1, hocnt⟩ ⟨hc, hres, hrdy⟩ ⟨herr, hcode⟩ ⟨rfl, rfl, rfl, rfl⟩

/-- Every register of a state at reset reads as after a reset: none shows whether the block is ready. -/
theorem hostRead_of_atReset (h : s.AtReset) (idx : RegIdx) : hostRead idx s = hostRead idx State.reset :=
  calc hostRead idx s = hostRead idx { s with ready := true } := rfl
    _ = hostRead idx State.reset := by rw [← resetElements_of_atReset h, hostRead_resetElements]

/-- Settles O18: both resets are `resetElements`, and the registers read as in `State.reset`, where O50 gives them. -/
theorem resetValuesAndRegisters : Obligations.ResetValuesAndRegisters := by
  refine ⟨fun s rest hp => ?_, fun s => ⟨_, exec_softReset s, resetElements_atReset s⟩,
    resetElements_atReset State.reset, fun s h => ⟨?_, fun i => ?_, fun idx => ?_⟩⟩
  · obtain ⟨t, hstep, hreset, -, hkept⟩ := step_of_reset hp (performEvent_resetInput _)
    exact ⟨t, hstep, hreset, hkept⟩
  · obtain ⟨-, -, -, -, -, -, -, -, hrdy, -⟩ := h
    simp [pmZero, hrdy]
  · obtain ⟨-, -, -, -, -, -, -, hres, -⟩ := h
    rw [pmSym, hres, BitVec.extractLsb'_zero]
  · obtain ⟨-, -, -, -, -, -, -, -, -, hreset⟩ := dataRegisters s
    rw [hostRead_of_atReset h, hreset]

/-- Settles O57: the reset values have the relations; the state after reset is its own reset. -/
theorem resetHasElementRelations : Obligations.ResetHasElementRelations :=
  ⟨resetElements_elementsOk State.reset, resetElements_elementsOk⟩

end Sys2Proof.Machine
end
